-- ==== Sys2Proof/Word.lean ====
section
/-! DEFINITION. The two widths of the machine (spec/00_scope.md R8): bytes and 16-bit words. -/

namespace Sys2Proof

/-- `u8`: register contents, memory bytes, operand bytes (R8, R25). -/
abbrev Byte := BitVec 8

/-- `u16`: `PC`, addresses and operand words (R8, R21, R70). -/
abbrev Word := BitVec 16

end Sys2Proof
end

