-- ==== Sys2Proof/Config.lean ====
section
/-! DEFINITION. What one machine fixes (the parameters of spec/00_scope.md R9) and the free values
that no claim may know (spec/20_memory.md R60, R74; notes/assumptions/1, 2 and 5). -/

namespace Sys2Proof

/-- The three interrupt lines (spec/60_exceptions.md R311, R316). -/
inductive Line where
  | nmi
  | reset
  | irq
deriving DecidableEq, Repr

/-- The parameters of R9 other than the bus. The two tables are held as the entries in which they
differ from table 3 of spec/30_encoding.md, so that the empty lists are the defaults (log 5). -/
structure Params where
  /-- Whether a hardware IRQ or NMI pushes the status with bit 4 cleared (R321). -/
  hwPushClearsB : Bool
  /-- The nestest build variant: RESET service loads `0xC000` (R322). -/
  resetOverrideC000 : Bool
  /-- `baseCycles`: opcode and count, in place of table 3's column `cyc`. -/
  baseCyclesFor : List (Byte × Nat)
  /-- `pageCrossFlag`: opcode and flag, in place of table 3's column `pc+`. -/
  pageCrossFor : List (Byte × Bool)
deriving DecidableEq, Repr

/-- The defaults of R9. -/
def Params.standard : Params :=
  { hwPushClearsB := true, resetOverrideC000 := false, baseCyclesFor := [], pageCrossFor := [] }

/-- The bus of R60 over a state `σ` of the devices behind it: what a read answers, the state it leaves and
the lines it asserts; what a write leaves and asserts. -/
structure Bus (σ : Type) where
  read : σ → Word → Byte × σ × (Line → Bool)
  write : σ → Word → Byte → σ × (Line → Bool)
deriving Inhabited

namespace Config

/-- The parameter `Bus` of R9, for the addresses routed to devices. Free: it has no body, so a claim
holds for every bus; one about a given device takes what that device does as a hypothesis on it. A
list of numbers can code any state of the devices (log 2). -/
opaque bus : Bus (List Nat)

/-- The byte the bus answers at its `n`-th call when nothing determines it: a cell whose content is not
described (open bus, R74, D30). Free: it has no body. -/
opaque freeByte : Nat → Byte

end Config

end Sys2Proof
end

