-- ==== Sys2Proof/Syntax.lean ====
section
/-! DEFINITION. The instructions as syntax: one constructor for each of the 152 rows of
spec/opcode_table.json (spec/30_encoding.md table 3 and its row of undefined bytes), with its
mnemonic (R90), its addressing mode (R91) and its operand (R92, R93). -/

namespace Sys2Proof

/-- The instruction tags of R90: 56 mnemonics and the tag of the undefined entries. -/
inductive Mnemonic where
  | lda | ldx | ldy | sta | stx | sty | tax | tay
  | txa | tya | tsx | txs | pha | pla | php | plp
  | and | ora | eor | bit | adc | sbc | cmp | cpx
  | cpy | inc | dec | inx | iny | dex | dey | asl
  | lsr | rol | ror | jmp | jsr | rts | rti | bcc
  | bcs | beq | bmi | bne | bpl | bvc | bvs | clc
  | sec | cli | sei | cld | sed | clv | brk | nop
  | unimplemented
deriving DecidableEq, Repr

/-- The addressing modes of R91: 13 modes and the mode of the undefined entries. -/
inductive Mode where
  | abs | absX | absY | ind | indY | xInd | zpg | zpgX | zpgY | rel | imm | acc | impl | invalid
deriving DecidableEq, Repr

/-- An addressing mode together with its operand: the operand word `h : l` of format F3, the operand
byte `o` of format F2, nothing for F1 (R92, R93); for an undefined entry, its opcode byte. -/
inductive Form where
  | abs (w : Word) | absX (w : Word) | absY (w : Word) | ind (w : Word)
  | indY (o : Byte) | xInd (o : Byte) | zpg (o : Byte) | zpgX (o : Byte) | zpgY (o : Byte)
  | rel (o : Byte) | imm (o : Byte)
  | acc
  | impl
  | invalid (op : Byte)
deriving DecidableEq, Repr

/-- The mode of a form. -/
def Form.mode : Form → Mode
  | .abs _ => .abs
  | .absX _ => .absX
  | .absY _ => .absY
  | .ind _ => .ind
  | .indY _ => .indY
  | .xInd _ => .xInd
  | .zpg _ => .zpg
  | .zpgX _ => .zpgX
  | .zpgY _ => .zpgY
  | .rel _ => .rel
  | .imm _ => .imm
  | .acc => .acc
  | .impl => .impl
  | .invalid _ => .invalid

/-- The length in bytes that a mode fixes (R92). -/
def Mode.length : Mode → Nat
  | .acc | .impl | .invalid => 1
  | .xInd | .indY | .zpg | .zpgX | .zpgY | .rel | .imm => 2
  | .abs | .absX | .absY | .ind => 3

/-- One constructor per row of the opcode table; `w` is an operand word, `o` an operand byte (a
zero-page address, an immediate value or a signed branch offset by the mode). -/
inductive Instr where
  -- Loads and stores (spec/41_load_store.md)
  | ldaImm (o : Byte) | ldaZpg (o : Byte) | ldaZpgX (o : Byte) | ldaAbs (w : Word)
  | ldaAbsX (w : Word) | ldaAbsY (w : Word) | ldaXInd (o : Byte) | ldaIndY (o : Byte)
  | ldxImm (o : Byte) | ldxZpg (o : Byte) | ldxZpgY (o : Byte) | ldxAbs (w : Word)
  | ldxAbsY (w : Word)
  | ldyImm (o : Byte) | ldyZpg (o : Byte) | ldyZpgX (o : Byte) | ldyAbs (w : Word)
  | ldyAbsX (w : Word)
  | staZpg (o : Byte) | staZpgX (o : Byte) | staAbs (w : Word) | staAbsX (w : Word)
  | staAbsY (w : Word) | staXInd (o : Byte) | staIndY (o : Byte)
  | stxZpg (o : Byte) | stxZpgY (o : Byte) | stxAbs (w : Word)
  | styZpg (o : Byte) | styZpgX (o : Byte) | styAbs (w : Word)
  -- Transfers and stack (spec/42_transfer_stack.md)
  | tax
  | tay
  | txa
  | tya
  | tsx
  | txs
  | pha
  | pla
  | php
  | plp
  -- Logic, arithmetic, compare (spec/43_logical_arith_compare.md)
  | andImm (o : Byte) | andZpg (o : Byte) | andZpgX (o : Byte) | andAbs (w : Word)
  | andAbsX (w : Word) | andAbsY (w : Word) | andXInd (o : Byte) | andIndY (o : Byte)
  | oraImm (o : Byte) | oraZpg (o : Byte) | oraZpgX (o : Byte) | oraAbs (w : Word)
  | oraAbsX (w : Word) | oraAbsY (w : Word) | oraXInd (o : Byte) | oraIndY (o : Byte)
  | eorImm (o : Byte) | eorZpg (o : Byte) | eorZpgX (o : Byte) | eorAbs (w : Word)
  | eorAbsX (w : Word) | eorAbsY (w : Word) | eorXInd (o : Byte) | eorIndY (o : Byte)
  | bitZpg (o : Byte) | bitAbs (w : Word)
  | adcImm (o : Byte) | adcZpg (o : Byte) | adcZpgX (o : Byte) | adcAbs (w : Word)
  | adcAbsX (w : Word) | adcAbsY (w : Word) | adcXInd (o : Byte) | adcIndY (o : Byte)
  | sbcImm (o : Byte) | sbcZpg (o : Byte) | sbcZpgX (o : Byte) | sbcAbs (w : Word)
  | sbcAbsX (w : Word) | sbcAbsY (w : Word) | sbcXInd (o : Byte) | sbcIndY (o : Byte)
  | cmpImm (o : Byte) | cmpZpg (o : Byte) | cmpZpgX (o : Byte) | cmpAbs (w : Word)
  | cmpAbsX (w : Word) | cmpAbsY (w : Word) | cmpXInd (o : Byte) | cmpIndY (o : Byte)
  | cpxImm (o : Byte) | cpxZpg (o : Byte) | cpxAbs (w : Word)
  | cpyImm (o : Byte) | cpyZpg (o : Byte) | cpyAbs (w : Word)
  -- Increment, decrement, shift, rotate (spec/44_incdec_shift.md)
  | incZpg (o : Byte) | incZpgX (o : Byte) | incAbs (w : Word) | incAbsX (w : Word)
  | decZpg (o : Byte) | decZpgX (o : Byte) | decAbs (w : Word) | decAbsX (w : Word)
  | inx
  | iny
  | dex
  | dey
  | aslAcc | aslZpg (o : Byte) | aslZpgX (o : Byte) | aslAbs (w : Word)
  | aslAbsX (w : Word)
  | lsrAcc | lsrZpg (o : Byte) | lsrZpgX (o : Byte) | lsrAbs (w : Word)
  | lsrAbsX (w : Word)
  | rolAcc | rolZpg (o : Byte) | rolZpgX (o : Byte) | rolAbs (w : Word)
  | rolAbsX (w : Word)
  | rorAcc | rorZpg (o : Byte) | rorZpgX (o : Byte) | rorAbs (w : Word)
  | rorAbsX (w : Word)
  -- Jumps, subroutines, return, branches (spec/45_control.md)
  | jmpAbs (w : Word) | jmpInd (w : Word)
  | jsr (w : Word)
  | rts
  | rti
  | bcc (o : Byte)
  | bcs (o : Byte)
  | beq (o : Byte)
  | bmi (o : Byte)
  | bne (o : Byte)
  | bpl (o : Byte)
  | bvc (o : Byte)
  | bvs (o : Byte)
  -- Flags, BRK, NOP (spec/46_flags_misc.md)
  | clc
  | sec
  | cli
  | sei
  | cld
  | sed
  | clv
  | brk
  | nop
  -- The row of the 105 undefined bytes (R99, R100): decoding one halts the core.
  | undefinedHalt (op : Byte)
deriving DecidableEq, Repr

/-- The instruction tag of each row (R90, table 3). -/
def Instr.mnemonic : Instr → Mnemonic
  | .ldaImm _ | .ldaZpg _ | .ldaZpgX _ | .ldaAbs _ | .ldaAbsX _ | .ldaAbsY _ | .ldaXInd _
    | .ldaIndY _ => .lda
  | .ldxImm _ | .ldxZpg _ | .ldxZpgY _ | .ldxAbs _ | .ldxAbsY _ => .ldx
  | .ldyImm _ | .ldyZpg _ | .ldyZpgX _ | .ldyAbs _ | .ldyAbsX _ => .ldy
  | .staZpg _ | .staZpgX _ | .staAbs _ | .staAbsX _ | .staAbsY _ | .staXInd _ | .staIndY _ => .sta
  | .stxZpg _ | .stxZpgY _ | .stxAbs _ => .stx
  | .styZpg _ | .styZpgX _ | .styAbs _ => .sty
  | .tax => .tax
  | .tay => .tay
  | .txa => .txa
  | .tya => .tya
  | .tsx => .tsx
  | .txs => .txs
  | .pha => .pha
  | .pla => .pla
  | .php => .php
  | .plp => .plp
  | .andImm _ | .andZpg _ | .andZpgX _ | .andAbs _ | .andAbsX _ | .andAbsY _ | .andXInd _
    | .andIndY _ => .and
  | .oraImm _ | .oraZpg _ | .oraZpgX _ | .oraAbs _ | .oraAbsX _ | .oraAbsY _ | .oraXInd _
    | .oraIndY _ => .ora
  | .eorImm _ | .eorZpg _ | .eorZpgX _ | .eorAbs _ | .eorAbsX _ | .eorAbsY _ | .eorXInd _
    | .eorIndY _ => .eor
  | .bitZpg _ | .bitAbs _ => .bit
  | .adcImm _ | .adcZpg _ | .adcZpgX _ | .adcAbs _ | .adcAbsX _ | .adcAbsY _ | .adcXInd _
    | .adcIndY _ => .adc
  | .sbcImm _ | .sbcZpg _ | .sbcZpgX _ | .sbcAbs _ | .sbcAbsX _ | .sbcAbsY _ | .sbcXInd _
    | .sbcIndY _ => .sbc
  | .cmpImm _ | .cmpZpg _ | .cmpZpgX _ | .cmpAbs _ | .cmpAbsX _ | .cmpAbsY _ | .cmpXInd _
    | .cmpIndY _ => .cmp
  | .cpxImm _ | .cpxZpg _ | .cpxAbs _ => .cpx
  | .cpyImm _ | .cpyZpg _ | .cpyAbs _ => .cpy
  | .incZpg _ | .incZpgX _ | .incAbs _ | .incAbsX _ => .inc
  | .decZpg _ | .decZpgX _ | .decAbs _ | .decAbsX _ => .dec
  | .inx => .inx
  | .iny => .iny
  | .dex => .dex
  | .dey => .dey
  | .aslAcc | .aslZpg _ | .aslZpgX _ | .aslAbs _ | .aslAbsX _ => .asl
  | .lsrAcc | .lsrZpg _ | .lsrZpgX _ | .lsrAbs _ | .lsrAbsX _ => .lsr
  | .rolAcc | .rolZpg _ | .rolZpgX _ | .rolAbs _ | .rolAbsX _ => .rol
  | .rorAcc | .rorZpg _ | .rorZpgX _ | .rorAbs _ | .rorAbsX _ => .ror
  | .jmpAbs _ | .jmpInd _ => .jmp
  | .jsr _ => .jsr
  | .rts => .rts
  | .rti => .rti
  | .bcc _ => .bcc
  | .bcs _ => .bcs
  | .beq _ => .beq
  | .bmi _ => .bmi
  | .bne _ => .bne
  | .bpl _ => .bpl
  | .bvc _ => .bvc
  | .bvs _ => .bvs
  | .clc => .clc
  | .sec => .sec
  | .cli => .cli
  | .sei => .sei
  | .cld => .cld
  | .sed => .sed
  | .clv => .clv
  | .brk => .brk
  | .nop => .nop
  | .undefinedHalt _ => .unimplemented

/-- The mode and operand of each row (R91 to R93, table 3). -/
def Instr.form : Instr → Form
  | .ldaImm o | .ldxImm o | .ldyImm o | .andImm o | .oraImm o | .eorImm o | .adcImm o
    | .sbcImm o | .cmpImm o | .cpxImm o | .cpyImm o => .imm o
  | .aslAcc | .lsrAcc | .rolAcc | .rorAcc => .acc
  | .tax | .tay | .txa | .tya | .tsx | .txs | .pha | .pla | .php | .plp | .inx | .iny | .dex
    | .dey | .rts | .rti | .clc | .sec | .cli | .sei | .cld | .sed | .clv | .brk | .nop => .impl
  | .ldaZpg o | .ldxZpg o | .ldyZpg o | .staZpg o | .stxZpg o | .styZpg o | .andZpg o
    | .oraZpg o | .eorZpg o | .bitZpg o | .adcZpg o | .sbcZpg o | .cmpZpg o | .cpxZpg o
    | .cpyZpg o | .incZpg o | .decZpg o | .aslZpg o | .lsrZpg o | .rolZpg o | .rorZpg o => .zpg o
  | .ldaZpgX o | .ldyZpgX o | .staZpgX o | .styZpgX o | .andZpgX o | .oraZpgX o | .eorZpgX o
    | .adcZpgX o | .sbcZpgX o | .cmpZpgX o | .incZpgX o | .decZpgX o | .aslZpgX o
    | .lsrZpgX o | .rolZpgX o | .rorZpgX o => .zpgX o
  | .ldxZpgY o | .stxZpgY o => .zpgY o
  | .ldaAbs w | .ldxAbs w | .ldyAbs w | .staAbs w | .stxAbs w | .styAbs w | .andAbs w
    | .oraAbs w | .eorAbs w | .bitAbs w | .adcAbs w | .sbcAbs w | .cmpAbs w | .cpxAbs w
    | .cpyAbs w | .incAbs w | .decAbs w | .aslAbs w | .lsrAbs w | .rolAbs w | .rorAbs w
    | .jmpAbs w | .jsr w => .abs w
  | .ldaAbsX w | .ldyAbsX w | .staAbsX w | .andAbsX w | .oraAbsX w | .eorAbsX w | .adcAbsX w
    | .sbcAbsX w | .cmpAbsX w | .incAbsX w | .decAbsX w | .aslAbsX w | .lsrAbsX w
    | .rolAbsX w | .rorAbsX w => .absX w
  | .ldaAbsY w | .ldxAbsY w | .staAbsY w | .andAbsY w | .oraAbsY w | .eorAbsY w | .adcAbsY w
    | .sbcAbsY w | .cmpAbsY w => .absY w
  | .jmpInd w => .ind w
  | .ldaXInd o | .staXInd o | .andXInd o | .oraXInd o | .eorXInd o | .adcXInd o | .sbcXInd o
    | .cmpXInd o => .xInd o
  | .ldaIndY o | .staIndY o | .andIndY o | .oraIndY o | .eorIndY o | .adcIndY o | .sbcIndY o
    | .cmpIndY o => .indY o
  | .bcc o | .bcs o | .beq o | .bmi o | .bne o | .bpl o | .bvc o | .bvs o => .rel o
  | .undefinedHalt op => .invalid op

/-- The addressing mode of an instruction. -/
def Instr.mode (i : Instr) : Mode := i.form.mode

/-- The length of an instruction in bytes (R92). -/
def Instr.length (i : Instr) : Nat := i.mode.length

end Sys2Proof
end

