-- ==== Sys2Proof/Decode.lean ====
section
/-! DEFINITION. Decoding bytes to instructions (spec/30_encoding.md R92 to R102, table 3), total on
any list of bytes; the encoder after it; and the byte, word and sign-extension helpers both use. -/

namespace Sys2Proof

/-- `hi : lo`, a word from two bytes (spec/00_scope.md, notation). -/
def concat (hi lo : Byte) : Word := hi ++ lo

/-- `hi8(w) = w[15:8]`. -/
def hi8 (w : Word) : Byte := w.extractLsb' 8 8

/-- `lo8(w) = w[7:0]`. -/
def lo8 (w : Word) : Byte := w.extractLsb' 0 8

/-- `page(w) = w[15:8]`: two addresses are in one page when these agree. -/
def page (w : Word) : Byte := hi8 w

/-- `zext_16(v)`. -/
def zext (v : Byte) : Word := v.setWidth 16

/-- `sext_16(v)`: bit 7 copied into bits 15..8. -/
def sext (v : Byte) : Word := v.signExtend 16

/-- How many operand bytes an opcode's instruction takes, and the instruction they make (R92, R93). -/
inductive Shape where
  | single (i : Instr)
  | withByte (f : Byte → Instr)
  | withWord (f : Word → Instr)

/-- A row of the decoder's table: an opcode byte and what it starts. -/
structure MapRow where
  op : Byte
  shape : Shape

/-- Table 3, opcodes `0x`. -/
def opcodeRow0 : List MapRow := [
  ⟨0x00, .single .brk⟩,
  ⟨0x01, .withByte .oraXInd⟩,
  ⟨0x05, .withByte .oraZpg⟩,
  ⟨0x06, .withByte .aslZpg⟩,
  ⟨0x08, .single .php⟩,
  ⟨0x09, .withByte .oraImm⟩,
  ⟨0x0A, .single .aslAcc⟩,
  ⟨0x0D, .withWord .oraAbs⟩,
  ⟨0x0E, .withWord .aslAbs⟩]

/-- Table 3, opcodes `1x`. -/
def opcodeRow1 : List MapRow := [
  ⟨0x10, .withByte .bpl⟩,
  ⟨0x11, .withByte .oraIndY⟩,
  ⟨0x15, .withByte .oraZpgX⟩,
  ⟨0x16, .withByte .aslZpgX⟩,
  ⟨0x18, .single .clc⟩,
  ⟨0x19, .withWord .oraAbsY⟩,
  ⟨0x1D, .withWord .oraAbsX⟩,
  ⟨0x1E, .withWord .aslAbsX⟩]

/-- Table 3, opcodes `2x`. -/
def opcodeRow2 : List MapRow := [
  ⟨0x20, .withWord .jsr⟩,
  ⟨0x21, .withByte .andXInd⟩,
  ⟨0x24, .withByte .bitZpg⟩,
  ⟨0x25, .withByte .andZpg⟩,
  ⟨0x26, .withByte .rolZpg⟩,
  ⟨0x28, .single .plp⟩,
  ⟨0x29, .withByte .andImm⟩,
  ⟨0x2A, .single .rolAcc⟩,
  ⟨0x2C, .withWord .bitAbs⟩,
  ⟨0x2D, .withWord .andAbs⟩,
  ⟨0x2E, .withWord .rolAbs⟩]

/-- Table 3, opcodes `3x`. -/
def opcodeRow3 : List MapRow := [
  ⟨0x30, .withByte .bmi⟩,
  ⟨0x31, .withByte .andIndY⟩,
  ⟨0x35, .withByte .andZpgX⟩,
  ⟨0x36, .withByte .rolZpgX⟩,
  ⟨0x38, .single .sec⟩,
  ⟨0x39, .withWord .andAbsY⟩,
  ⟨0x3D, .withWord .andAbsX⟩,
  ⟨0x3E, .withWord .rolAbsX⟩]

/-- Table 3, opcodes `4x`. -/
def opcodeRow4 : List MapRow := [
  ⟨0x40, .single .rti⟩,
  ⟨0x41, .withByte .eorXInd⟩,
  ⟨0x45, .withByte .eorZpg⟩,
  ⟨0x46, .withByte .lsrZpg⟩,
  ⟨0x48, .single .pha⟩,
  ⟨0x49, .withByte .eorImm⟩,
  ⟨0x4A, .single .lsrAcc⟩,
  ⟨0x4C, .withWord .jmpAbs⟩,
  ⟨0x4D, .withWord .eorAbs⟩,
  ⟨0x4E, .withWord .lsrAbs⟩]

/-- Table 3, opcodes `5x`. -/
def opcodeRow5 : List MapRow := [
  ⟨0x50, .withByte .bvc⟩,
  ⟨0x51, .withByte .eorIndY⟩,
  ⟨0x55, .withByte .eorZpgX⟩,
  ⟨0x56, .withByte .lsrZpgX⟩,
  ⟨0x58, .single .cli⟩,
  ⟨0x59, .withWord .eorAbsY⟩,
  ⟨0x5D, .withWord .eorAbsX⟩,
  ⟨0x5E, .withWord .lsrAbsX⟩]

/-- Table 3, opcodes `6x`. -/
def opcodeRow6 : List MapRow := [
  ⟨0x60, .single .rts⟩,
  ⟨0x61, .withByte .adcXInd⟩,
  ⟨0x65, .withByte .adcZpg⟩,
  ⟨0x66, .withByte .rorZpg⟩,
  ⟨0x68, .single .pla⟩,
  ⟨0x69, .withByte .adcImm⟩,
  ⟨0x6A, .single .rorAcc⟩,
  ⟨0x6C, .withWord .jmpInd⟩,
  ⟨0x6D, .withWord .adcAbs⟩,
  ⟨0x6E, .withWord .rorAbs⟩]

/-- Table 3, opcodes `7x`. -/
def opcodeRow7 : List MapRow := [
  ⟨0x70, .withByte .bvs⟩,
  ⟨0x71, .withByte .adcIndY⟩,
  ⟨0x75, .withByte .adcZpgX⟩,
  ⟨0x76, .withByte .rorZpgX⟩,
  ⟨0x78, .single .sei⟩,
  ⟨0x79, .withWord .adcAbsY⟩,
  ⟨0x7D, .withWord .adcAbsX⟩,
  ⟨0x7E, .withWord .rorAbsX⟩]

/-- Table 3, opcodes `8x`. -/
def opcodeRow8 : List MapRow := [
  ⟨0x81, .withByte .staXInd⟩,
  ⟨0x84, .withByte .styZpg⟩,
  ⟨0x85, .withByte .staZpg⟩,
  ⟨0x86, .withByte .stxZpg⟩,
  ⟨0x88, .single .dey⟩,
  ⟨0x8A, .single .txa⟩,
  ⟨0x8C, .withWord .styAbs⟩,
  ⟨0x8D, .withWord .staAbs⟩,
  ⟨0x8E, .withWord .stxAbs⟩]

/-- Table 3, opcodes `9x`. -/
def opcodeRow9 : List MapRow := [
  ⟨0x90, .withByte .bcc⟩,
  ⟨0x91, .withByte .staIndY⟩,
  ⟨0x94, .withByte .styZpgX⟩,
  ⟨0x95, .withByte .staZpgX⟩,
  ⟨0x96, .withByte .stxZpgY⟩,
  ⟨0x98, .single .tya⟩,
  ⟨0x99, .withWord .staAbsY⟩,
  ⟨0x9A, .single .txs⟩,
  ⟨0x9D, .withWord .staAbsX⟩]

/-- Table 3, opcodes `Ax`. -/
def opcodeRowA : List MapRow := [
  ⟨0xA0, .withByte .ldyImm⟩,
  ⟨0xA1, .withByte .ldaXInd⟩,
  ⟨0xA2, .withByte .ldxImm⟩,
  ⟨0xA4, .withByte .ldyZpg⟩,
  ⟨0xA5, .withByte .ldaZpg⟩,
  ⟨0xA6, .withByte .ldxZpg⟩,
  ⟨0xA8, .single .tay⟩,
  ⟨0xA9, .withByte .ldaImm⟩,
  ⟨0xAA, .single .tax⟩,
  ⟨0xAC, .withWord .ldyAbs⟩,
  ⟨0xAD, .withWord .ldaAbs⟩,
  ⟨0xAE, .withWord .ldxAbs⟩]

/-- Table 3, opcodes `Bx`. -/
def opcodeRowB : List MapRow := [
  ⟨0xB0, .withByte .bcs⟩,
  ⟨0xB1, .withByte .ldaIndY⟩,
  ⟨0xB4, .withByte .ldyZpgX⟩,
  ⟨0xB5, .withByte .ldaZpgX⟩,
  ⟨0xB6, .withByte .ldxZpgY⟩,
  ⟨0xB8, .single .clv⟩,
  ⟨0xB9, .withWord .ldaAbsY⟩,
  ⟨0xBA, .single .tsx⟩,
  ⟨0xBC, .withWord .ldyAbsX⟩,
  ⟨0xBD, .withWord .ldaAbsX⟩,
  ⟨0xBE, .withWord .ldxAbsY⟩]

/-- Table 3, opcodes `Cx`. -/
def opcodeRowC : List MapRow := [
  ⟨0xC0, .withByte .cpyImm⟩,
  ⟨0xC1, .withByte .cmpXInd⟩,
  ⟨0xC4, .withByte .cpyZpg⟩,
  ⟨0xC5, .withByte .cmpZpg⟩,
  ⟨0xC6, .withByte .decZpg⟩,
  ⟨0xC8, .single .iny⟩,
  ⟨0xC9, .withByte .cmpImm⟩,
  ⟨0xCA, .single .dex⟩,
  ⟨0xCC, .withWord .cpyAbs⟩,
  ⟨0xCD, .withWord .cmpAbs⟩,
  ⟨0xCE, .withWord .decAbs⟩]

/-- Table 3, opcodes `Dx`. -/
def opcodeRowD : List MapRow := [
  ⟨0xD0, .withByte .bne⟩,
  ⟨0xD1, .withByte .cmpIndY⟩,
  ⟨0xD5, .withByte .cmpZpgX⟩,
  ⟨0xD6, .withByte .decZpgX⟩,
  ⟨0xD8, .single .cld⟩,
  ⟨0xD9, .withWord .cmpAbsY⟩,
  ⟨0xDD, .withWord .cmpAbsX⟩,
  ⟨0xDE, .withWord .decAbsX⟩]

/-- Table 3, opcodes `Ex`. -/
def opcodeRowE : List MapRow := [
  ⟨0xE0, .withByte .cpxImm⟩,
  ⟨0xE1, .withByte .sbcXInd⟩,
  ⟨0xE4, .withByte .cpxZpg⟩,
  ⟨0xE5, .withByte .sbcZpg⟩,
  ⟨0xE6, .withByte .incZpg⟩,
  ⟨0xE8, .single .inx⟩,
  ⟨0xE9, .withByte .sbcImm⟩,
  ⟨0xEA, .single .nop⟩,
  ⟨0xEC, .withWord .cpxAbs⟩,
  ⟨0xED, .withWord .sbcAbs⟩,
  ⟨0xEE, .withWord .incAbs⟩]

/-- Table 3, opcodes `Fx`. -/
def opcodeRowF : List MapRow := [
  ⟨0xF0, .withByte .beq⟩,
  ⟨0xF1, .withByte .sbcIndY⟩,
  ⟨0xF5, .withByte .sbcZpgX⟩,
  ⟨0xF6, .withByte .incZpgX⟩,
  ⟨0xF8, .single .sed⟩,
  ⟨0xF9, .withWord .sbcAbsY⟩,
  ⟨0xFD, .withWord .sbcAbsX⟩,
  ⟨0xFE, .withWord .incAbsX⟩]

/-- Table 3: opcode byte and instruction (R95, R96), by high nibble. -/
def opcodeMap : List MapRow :=
  opcodeRow0 ++ opcodeRow1 ++ opcodeRow2 ++ opcodeRow3 ++
  opcodeRow4 ++ opcodeRow5 ++ opcodeRow6 ++ opcodeRow7 ++
  opcodeRow8 ++ opcodeRow9 ++ opcodeRowA ++ opcodeRowB ++
  opcodeRowC ++ opcodeRowD ++ opcodeRowE ++ opcodeRowF

/-- The decoder's table lookup on the opcode byte alone (R94, R95): a byte table 3 does not list is an
undefined entry (R99). -/
def shapeOf (op : Byte) : Shape :=
  match opcodeMap.find? (fun row => row.op == op) with
  | some row => row.shape
  | none => .single (.undefinedHalt op)

/-- The instruction of three bytes in address order; bytes past its length are not looked at. -/
def decodeWindow (b0 b1 b2 : Byte) : Instr :=
  match shapeOf b0 with
  | .single i => i
  | .withByte f => f b1
  | .withWord f => f (concat b2 b1)

/-- Why a list of bytes is no instruction: it ends too early. No byte value is a reason (R101). -/
inductive DecodeReject where
  | noOpcode
  | operandMissing (op : Byte)
deriving DecidableEq, Repr

/-- What the decoder answers: an instruction and the bytes after it, or why not. -/
inductive Decoded where
  | ok (i : Instr) (rest : List Byte)
  | reject (why : DecodeReject)
deriving DecidableEq, Repr

/-- Decode the first instruction of a list of bytes: an F3 operand word is low byte first (R93). -/
def decode : List Byte → Decoded
  | [] => .reject .noOpcode
  | op :: rest =>
    match shapeOf op, rest with
    | .single i, rest => .ok i rest
    | .withByte f, o :: rest => .ok (f o) rest
    | .withByte _, [] => .reject (.operandMissing op)
    | .withWord f, l :: h :: rest => .ok (f (concat h l)) rest
    | .withWord _, _ => .reject (.operandMissing op)

/-- The three bytes of a number of `nbits` bits, the first byte in its lowest eight; bits above
`nbits` are 0. -/
def tableBytes (nbits w : Nat) : Byte × Byte × Byte :=
  let v := w % 2 ^ nbits
  (BitVec.ofNat 8 v, BitVec.ofNat 8 (v / 256), BitVec.ofNat 8 (v / 65536))

/-- The instruction the decoder reads from an instruction whose bits are `w`, numbered as the opcode
table numbers them. -/
def decodeTableWord (nbits w : Nat) : Option Instr :=
  let b := tableBytes nbits w
  match decode [b.1, b.2.1, b.2.2] with
  | .ok i _ => some i
  | .reject _ => none

/-- The bytes of an instruction (table 3, R92, R93): the opcode, then the operand, low byte first. -/
def encode : Instr → List Byte
  | .ldaImm o => [0xA9, o]
  | .ldaZpg o => [0xA5, o]
  | .ldaZpgX o => [0xB5, o]
  | .ldaAbs w => [0xAD, lo8 w, hi8 w]
  | .ldaAbsX w => [0xBD, lo8 w, hi8 w]
  | .ldaAbsY w => [0xB9, lo8 w, hi8 w]
  | .ldaXInd o => [0xA1, o]
  | .ldaIndY o => [0xB1, o]
  | .ldxImm o => [0xA2, o]
  | .ldxZpg o => [0xA6, o]
  | .ldxZpgY o => [0xB6, o]
  | .ldxAbs w => [0xAE, lo8 w, hi8 w]
  | .ldxAbsY w => [0xBE, lo8 w, hi8 w]
  | .ldyImm o => [0xA0, o]
  | .ldyZpg o => [0xA4, o]
  | .ldyZpgX o => [0xB4, o]
  | .ldyAbs w => [0xAC, lo8 w, hi8 w]
  | .ldyAbsX w => [0xBC, lo8 w, hi8 w]
  | .staZpg o => [0x85, o]
  | .staZpgX o => [0x95, o]
  | .staAbs w => [0x8D, lo8 w, hi8 w]
  | .staAbsX w => [0x9D, lo8 w, hi8 w]
  | .staAbsY w => [0x99, lo8 w, hi8 w]
  | .staXInd o => [0x81, o]
  | .staIndY o => [0x91, o]
  | .stxZpg o => [0x86, o]
  | .stxZpgY o => [0x96, o]
  | .stxAbs w => [0x8E, lo8 w, hi8 w]
  | .styZpg o => [0x84, o]
  | .styZpgX o => [0x94, o]
  | .styAbs w => [0x8C, lo8 w, hi8 w]
  | .tax => [0xAA]
  | .tay => [0xA8]
  | .txa => [0x8A]
  | .tya => [0x98]
  | .tsx => [0xBA]
  | .txs => [0x9A]
  | .pha => [0x48]
  | .pla => [0x68]
  | .php => [0x08]
  | .plp => [0x28]
  | .andImm o => [0x29, o]
  | .andZpg o => [0x25, o]
  | .andZpgX o => [0x35, o]
  | .andAbs w => [0x2D, lo8 w, hi8 w]
  | .andAbsX w => [0x3D, lo8 w, hi8 w]
  | .andAbsY w => [0x39, lo8 w, hi8 w]
  | .andXInd o => [0x21, o]
  | .andIndY o => [0x31, o]
  | .oraImm o => [0x09, o]
  | .oraZpg o => [0x05, o]
  | .oraZpgX o => [0x15, o]
  | .oraAbs w => [0x0D, lo8 w, hi8 w]
  | .oraAbsX w => [0x1D, lo8 w, hi8 w]
  | .oraAbsY w => [0x19, lo8 w, hi8 w]
  | .oraXInd o => [0x01, o]
  | .oraIndY o => [0x11, o]
  | .eorImm o => [0x49, o]
  | .eorZpg o => [0x45, o]
  | .eorZpgX o => [0x55, o]
  | .eorAbs w => [0x4D, lo8 w, hi8 w]
  | .eorAbsX w => [0x5D, lo8 w, hi8 w]
  | .eorAbsY w => [0x59, lo8 w, hi8 w]
  | .eorXInd o => [0x41, o]
  | .eorIndY o => [0x51, o]
  | .bitZpg o => [0x24, o]
  | .bitAbs w => [0x2C, lo8 w, hi8 w]
  | .adcImm o => [0x69, o]
  | .adcZpg o => [0x65, o]
  | .adcZpgX o => [0x75, o]
  | .adcAbs w => [0x6D, lo8 w, hi8 w]
  | .adcAbsX w => [0x7D, lo8 w, hi8 w]
  | .adcAbsY w => [0x79, lo8 w, hi8 w]
  | .adcXInd o => [0x61, o]
  | .adcIndY o => [0x71, o]
  | .sbcImm o => [0xE9, o]
  | .sbcZpg o => [0xE5, o]
  | .sbcZpgX o => [0xF5, o]
  | .sbcAbs w => [0xED, lo8 w, hi8 w]
  | .sbcAbsX w => [0xFD, lo8 w, hi8 w]
  | .sbcAbsY w => [0xF9, lo8 w, hi8 w]
  | .sbcXInd o => [0xE1, o]
  | .sbcIndY o => [0xF1, o]
  | .cmpImm o => [0xC9, o]
  | .cmpZpg o => [0xC5, o]
  | .cmpZpgX o => [0xD5, o]
  | .cmpAbs w => [0xCD, lo8 w, hi8 w]
  | .cmpAbsX w => [0xDD, lo8 w, hi8 w]
  | .cmpAbsY w => [0xD9, lo8 w, hi8 w]
  | .cmpXInd o => [0xC1, o]
  | .cmpIndY o => [0xD1, o]
  | .cpxImm o => [0xE0, o]
  | .cpxZpg o => [0xE4, o]
  | .cpxAbs w => [0xEC, lo8 w, hi8 w]
  | .cpyImm o => [0xC0, o]
  | .cpyZpg o => [0xC4, o]
  | .cpyAbs w => [0xCC, lo8 w, hi8 w]
  | .incZpg o => [0xE6, o]
  | .incZpgX o => [0xF6, o]
  | .incAbs w => [0xEE, lo8 w, hi8 w]
  | .incAbsX w => [0xFE, lo8 w, hi8 w]
  | .decZpg o => [0xC6, o]
  | .decZpgX o => [0xD6, o]
  | .decAbs w => [0xCE, lo8 w, hi8 w]
  | .decAbsX w => [0xDE, lo8 w, hi8 w]
  | .inx => [0xE8]
  | .iny => [0xC8]
  | .dex => [0xCA]
  | .dey => [0x88]
  | .aslAcc => [0x0A]
  | .aslZpg o => [0x06, o]
  | .aslZpgX o => [0x16, o]
  | .aslAbs w => [0x0E, lo8 w, hi8 w]
  | .aslAbsX w => [0x1E, lo8 w, hi8 w]
  | .lsrAcc => [0x4A]
  | .lsrZpg o => [0x46, o]
  | .lsrZpgX o => [0x56, o]
  | .lsrAbs w => [0x4E, lo8 w, hi8 w]
  | .lsrAbsX w => [0x5E, lo8 w, hi8 w]
  | .rolAcc => [0x2A]
  | .rolZpg o => [0x26, o]
  | .rolZpgX o => [0x36, o]
  | .rolAbs w => [0x2E, lo8 w, hi8 w]
  | .rolAbsX w => [0x3E, lo8 w, hi8 w]
  | .rorAcc => [0x6A]
  | .rorZpg o => [0x66, o]
  | .rorZpgX o => [0x76, o]
  | .rorAbs w => [0x6E, lo8 w, hi8 w]
  | .rorAbsX w => [0x7E, lo8 w, hi8 w]
  | .jmpAbs w => [0x4C, lo8 w, hi8 w]
  | .jmpInd w => [0x6C, lo8 w, hi8 w]
  | .jsr w => [0x20, lo8 w, hi8 w]
  | .rts => [0x60]
  | .rti => [0x40]
  | .bcc o => [0x90, o]
  | .bcs o => [0xB0, o]
  | .beq o => [0xF0, o]
  | .bmi o => [0x30, o]
  | .bne o => [0xD0, o]
  | .bpl o => [0x10, o]
  | .bvc o => [0x50, o]
  | .bvs o => [0x70, o]
  | .clc => [0x18]
  | .sec => [0x38]
  | .cli => [0x58]
  | .sei => [0x78]
  | .cld => [0xD8]
  | .sed => [0xF8]
  | .clv => [0xB8]
  | .brk => [0x00]
  | .nop => [0xEA]
  | .undefinedHalt op => [op]

/-- The opcode byte of an instruction. -/
def Instr.opcode (i : Instr) : Byte := (encode i).headD 0

end Sys2Proof
end

