-- ==== Sys2Proof/Machine/State.lean ====
section
/-! DEFINITION. The state of the machine as plain data (spec/10_state.md R20 to R45, spec/60_exceptions.md
R311, spec/20_memory.md R42 and R60), why a step can stop, and the state after reset. -/

namespace Sys2Proof.Machine

/-- The operational state of R39. -/
inductive RunState where
  | running
  | halted
deriving DecidableEq, Repr

/-- The interrupt latch: the set `pending ⊆ {NMI, RESET, IRQ}` of R41. -/
structure Latch where
  nmi : Bool
  reset : Bool
  irq : Bool
deriving DecidableEq, Repr

/-- One call of the bus (R60, R145): a read of an address, or a write of a byte to one. -/
inductive BusCall where
  | read (a : Word)
  | write (a : Word) (v : Byte)
deriving DecidableEq, Repr

/-- What stands behind a range of addresses (R62; log 2). -/
inductive Backing where
  /-- Memory cells from `target` on, repeated after `period` addresses (a mirror; 0: not repeated);
  `writable` is false for ROM. -/
  | cells (target : Word) (period : Nat) (writable : Bool)
  /-- A device: `Config.bus` answers. -/
  | device
deriving DecidableEq, Repr

/-- How the bus routes a range of addresses (R62): `base`, and `size` addresses from it. -/
structure Route where
  base : Nat
  size : Nat
  backing : Backing
deriving DecidableEq, Repr

/-- What an access of one address reaches: a memory cell, or the devices. -/
inductive Place where
  | cell (n : Word) (writable : Bool)
  | device
deriving DecidableEq, Repr

/-- The described contents of the bus's memory cells: their numbers strictly rising, one byte each. A
cell that is not listed has no described content (R74; log 1). -/
abbrev Memory := List Host.Cell

/-- Everything the spec gives the machine. INVENTORY.md lists each field with its rule. -/
@[ext]
structure State where
  /-- `PC` (R21, R22). Meaningful only while `pcSet` holds. -/
  pc : Word
  /-- Whether `PC` holds a value (R23). -/
  pcSet : Bool
  /-- `S`, the stack pointer (R24). -/
  sp : Byte
  /-- `A` (R25). -/
  a : Byte
  /-- `X` (R25). -/
  x : Byte
  /-- `Y` (R25). -/
  y : Byte
  /-- `P`, all eight bits stored (R27, R28). -/
  p : Byte
  /-- Running or Halted (R39). -/
  run : RunState
  /-- The cycle counter, unbounded (R40, D15). -/
  cycles : Nat
  /-- The interrupt latch (R41). -/
  pending : Latch
  /-- The described memory behind the bus (R42, R74). -/
  mem : Memory
  /-- How the bus routes addresses (R62; log 2): the first route that covers an address decides, and an
  address that none covers is its own writable cell. No step writes it. -/
  routes : List Route
  /-- The state `σ` of the devices behind the bus (R42, R60; log 2). -/
  devices : List Nat
  /-- The bus's own record of accesses, newest first (R357, R145; log 8). -/
  busLog : List BusCall
  /-- The model's own count of bus calls: the index of the free values (log 9). -/
  busCalls : Nat
  /-- The parameters of R9 (log 5). No step writes it. -/
  params : Params
deriving DecidableEq, Repr

/-- Why the machine stops with a fault. -/
inductive Fault where
  /-- `fault PcUnset` (R23, R334): raised by a step that would fetch an opcode, and by the service
  path of NMI, IRQ and BRK, while `PC` holds no value. The spec gives the case no meaning. Safe: no
  claim may call it a good end. -/
  | pcUnset
deriving DecidableEq, Repr

/-- Why the model gives an instruction no meaning. -/
inductive Refusal where
  /-- An arm of exec that has no meaning yet, by its mnemonic. No arm raises it. Safe. -/
  | notModelled (mnemonic : String)
deriving DecidableEq, Repr

/-- The outcome of a step, of an instruction or of the service path. -/
abbrev Result := Host.Outcome State Fault Refusal

/-- The launch state of R351 (D29): the values of `power_cycle()` (R44, R350) with RESET pending. `PC`
holds no value (R23; the stored 0 is never read, log 4); the bus is flat memory of which nothing is
described, without devices (log 3), and no bus call has been made. -/
def State.reset : State where
  pc := 0
  pcSet := false
  sp := 0xFD
  a := 0x00
  x := 0x00
  y := 0x00
  p := 0x34
  run := .running
  cycles := 0
  pending := { nmi := false, reset := true, irq := false }
  mem := []
  routes := []
  devices := []
  busLog := []
  busCalls := 0
  params := Params.standard

end Sys2Proof.Machine
end

