-- ==== Sys2Proof/Machine/Cycles.lean ====
section
/-! DEFINITION. The cycle counts (spec/30_encoding.md R96, R97, table 3; spec/70_reset_and_hazards.md
R363): the default tables, and the parameters `baseCycles` and `pageCrossFlag` of R9. The numbers are
the spec's own from general knowledge (spec/93_implementation_defined.md G2, G3; log 11). -/

namespace Sys2Proof.Machine

/-- Table 3's column `cyc`: one row for each high nibble, one entry for each low nibble, 0 where the
byte is undefined. BRK's entry (`0x00`) is 0: the service path charges its 7 cycles (D11). -/
def baseCycleTable : List (List Nat) := [
  [0, 6, 0, 0, 0, 3, 5, 0, 3, 2, 2, 0, 0, 4, 6, 0],
  [2, 5, 0, 0, 0, 4, 6, 0, 2, 4, 0, 0, 0, 4, 7, 0],
  [6, 6, 0, 0, 3, 3, 5, 0, 4, 2, 2, 0, 4, 4, 6, 0],
  [2, 5, 0, 0, 0, 4, 6, 0, 2, 4, 0, 0, 0, 4, 7, 0],
  [6, 6, 0, 0, 0, 3, 5, 0, 3, 2, 2, 0, 3, 4, 6, 0],
  [2, 5, 0, 0, 0, 4, 6, 0, 2, 4, 0, 0, 0, 4, 7, 0],
  [6, 6, 0, 0, 0, 3, 5, 0, 4, 2, 2, 0, 5, 4, 6, 0],
  [2, 5, 0, 0, 0, 4, 6, 0, 2, 4, 0, 0, 0, 4, 7, 0],
  [0, 6, 0, 0, 3, 3, 3, 0, 2, 0, 2, 0, 4, 4, 4, 0],
  [2, 6, 0, 0, 4, 4, 4, 0, 2, 5, 2, 0, 0, 5, 0, 0],
  [2, 6, 2, 0, 3, 3, 3, 0, 2, 2, 2, 0, 4, 4, 4, 0],
  [2, 5, 0, 0, 4, 4, 4, 0, 2, 4, 2, 0, 4, 4, 4, 0],
  [2, 6, 0, 0, 3, 3, 5, 0, 2, 2, 2, 0, 4, 4, 6, 0],
  [2, 5, 0, 0, 0, 4, 6, 0, 2, 4, 0, 0, 0, 4, 7, 0],
  [2, 6, 0, 0, 3, 3, 5, 0, 2, 2, 2, 0, 4, 4, 6, 0],
  [2, 5, 0, 0, 0, 4, 6, 0, 2, 4, 0, 0, 0, 4, 7, 0]]

/-- Table 3's column `pc+`: the opcodes that pay the page-cross cycle (R97). -/
def pageCrossTable : List Byte :=
  [0x11, 0x19, 0x1D, 0x31, 0x39, 0x3D, 0x51, 0x59, 0x5D, 0x71, 0x79, 0x7D,
   0xB1, 0xB9, 0xBC, 0xBD, 0xBE, 0xD1, 0xD9, 0xDD, 0xF1, 0xF9, 0xFD]

/-- The parameter `baseCycles` (R9, D8): the entry the parameters give an opcode, else table 3's. -/
def baseCycles (c : Params) (op : Byte) : Nat :=
  match c.baseCyclesFor.find? (fun e => e.1 == op) with
  | some e => e.2
  | none => (baseCycleTable.getD (op.toNat / 16) []).getD (op.toNat % 16) 0

/-- The parameter `pageCrossFlag` (R9, D9): the entry the parameters give an opcode, else table 3's. -/
def pageCrossFlag (c : Params) (op : Byte) : Bool :=
  match c.pageCrossFor.find? (fun e => e.1 == op) with
  | some e => e.2
  | none => pageCrossTable.contains op

/-- The page-cross cycle of one execution (R120, R139): 1 if the opcode is flagged and the address
crossed a page, else 0. -/
def crossCycles (c : Params) (op : Byte) (crossed : Bool) : Nat :=
  if pageCrossFlag c op && crossed then 1 else 0

/-- The extra cycles of a taken branch (R270): 1, and 2 more if the address after the branch and the
destination lie in different pages. -/
def branchCycles (after dest : Word) : Nat := if page after != page dest then 3 else 1

end Sys2Proof.Machine
end

