-- ==== Sys2Proof/Machine/Flags.lean ====
section
/-! DEFINITION. The bits of `P` (spec/10_state.md R27 to R36) and every flag computation and 8-bit
operation of the instructions, on bytes alone (spec/40_step_and_addressing.md R140,
spec/43_logical_arith_compare.md, spec/44_incdec_shift.md). -/

namespace Sys2Proof.Machine

/-- The bits of `P` by name (R27). -/
inductive Flag where
  | C | Z | I | D | B | U | V | N
deriving DecidableEq, Repr

/-- The bit number of a flag (R27). -/
def Flag.bit : Flag → Nat
  | .C => 0
  | .Z => 1
  | .I => 2
  | .D => 3
  | .B => 4
  | .U => 5
  | .V => 6
  | .N => 7

/-- A flag of a status byte. -/
def getFlag (f : Flag) (p : Byte) : Bool := p.getLsbD f.bit

/-- A status byte with one flag written and every other bit kept. -/
def putFlag (f : Flag) (v : Bool) (p : Byte) : Byte :=
  let mask : Byte := 1#8 <<< f.bit
  if v then p ||| mask else p &&& ~~~mask

/-- `SetZN(v)` on a status byte (R140). -/
def setZN (v : Byte) (p : Byte) : Byte := putFlag .N v.msb (putFlag .Z (v == 0) p)

/-- A flag as a 16-bit 0 or 1, `zext_16(P.f)`. -/
def flagWord (f : Flag) (p : Byte) : Word := if getFlag f p then 1 else 0

/-- The 16-bit sum of ADC: at most `0x1FF`, no wrap (R205). -/
def adcSum (a m p : Byte) : Word := zext a + zext m + flagWord .C p

/-- The sum byte of ADC (R205). -/
def adcOut (a m p : Byte) : Byte := lo8 (adcSum a m p)

/-- The status byte after ADC (R205). `D` is not read (R32). -/
def adcFlags (a m p : Byte) : Byte :=
  let sum := adcSum a m p
  let c : Bool := decide (sum > 0xFF)
  let z : Bool := (sum &&& 0xFF) == 0
  let v : Bool := ((~~~(a ^^^ m)) &&& (a ^^^ lo8 sum) &&& 0x80) != 0
  let n : Bool := sum.getLsbD 7
  putFlag .N n (putFlag .V v (putFlag .Z z (putFlag .C c p)))

/-- The difference byte of SBC: ADC of the complement (R206, C2). -/
def sbcOut (a m p : Byte) : Byte := adcOut a (~~~m) p

/-- The status byte after SBC: ADC's of the complement, carry not inverted (R206, C2). -/
def sbcFlags (a m p : Byte) : Byte := adcFlags a (~~~m) p

/-- The status byte after a compare of a register with `m` (R207): `C` is "no borrow", unsigned. -/
def cmpFlags (r m p : Byte) : Byte := setZN (r - m) (putFlag .C (decide (r ≥ m)) p)

/-- The status byte after BIT (R204): `Z` from `A & M`, `V` and `N` from `M` alone. -/
def bitFlags (a m p : Byte) : Byte :=
  putFlag .N (m.getLsbD 7) (putFlag .V (m.getLsbD 6) (putFlag .Z ((a &&& m) == 0) p))

/-- A shift's or rotate's result byte and its status byte, from the bit shifted out. -/
def shiftResult (out : Byte) (carry : Bool) (p : Byte) : Byte × Byte :=
  (out, setZN out (putFlag .C carry p))

/-- ASL (R237): result and status byte. -/
def asl (m p : Byte) : Byte × Byte := shiftResult (m <<< 1) (m.getLsbD 7) p

/-- LSR (R238): result and status byte. -/
def lsr (m p : Byte) : Byte × Byte := shiftResult (m >>> 1) (m.getLsbD 0) p

/-- ROL (R239): result and status byte; the old carry enters bit 0. -/
def rol (m p : Byte) : Byte × Byte :=
  shiftResult ((m <<< 1) ||| (if getFlag .C p then 0x01 else 0x00)) (m.getLsbD 7) p

/-- ROR (R240): result and status byte; the old carry enters bit 7. -/
def ror (m p : Byte) : Byte × Byte :=
  shiftResult ((m >>> 1) ||| (if getFlag .C p then 0x80 else 0x00)) (m.getLsbD 0) p

/-- INC (R231): result and status byte. -/
def inc (m p : Byte) : Byte × Byte := (m + 1, setZN (m + 1) p)

/-- DEC (R232): result and status byte. -/
def dec (m p : Byte) : Byte × Byte := (m - 1, setZN (m - 1) p)

/-- The byte PLP and RTI put in `P`: `U` forced to 1, the other bits as pulled (R34, R190, R264). -/
def pulledStatus (v : Byte) : Byte := v ||| 0x20

/-- The status byte the service path pushes (R321, D6). -/
def pushedStatus (hwPushClearsB brk : Bool) (p : Byte) : Byte :=
  if brk then p ||| 0x30
  else if hwPushClearsB then (p &&& 0xEF) ||| 0x20
  else p

end Sys2Proof.Machine
end

