-- ==== Sys2Proof/Machine/Ops.lean ====
section
/-! DEFINITION. The named operations: registers, the interrupt latch, memory and the bus, the stack,
fetching, taking an interrupt and returning from one (spec/20_memory.md, spec/60_exceptions.md,
spec/40_step_and_addressing.md R121). A read is a pair of a value and the state after it. -/

namespace Sys2Proof.Machine

/-! ### Registers -/

/-- `A <- v`. -/
def setA (v : Byte) (s : State) : State := { s with a := v }

/-- `X <- v`. -/
def setX (v : Byte) (s : State) : State := { s with x := v }

/-- `Y <- v`. -/
def setY (v : Byte) (s : State) : State := { s with y := v }

/-- `S <- v`. -/
def setSp (v : Byte) (s : State) : State := { s with sp := v }

/-- `P <- v`, all eight bits. -/
def setP (v : Byte) (s : State) : State := { s with p := v }

/-- `PC <- v`: from then on `PC` holds a value (R23). -/
def setPc (v : Word) (s : State) : State := { s with pc := v, pcSet := true }

/-- `PC <- PC + n`, mod 2^16 (R21). -/
def advancePc (n : Word) (s : State) : State := { s with pc := s.pc + n }

/-- `cycles <- cycles + n` (R40). -/
def addCycles (n : Nat) (s : State) : State := { s with cycles := s.cycles + n }

/-- Write one flag of `P` and no other bit. -/
def setFlag (f : Flag) (v : Bool) (s : State) : State := setP (putFlag f v s.p) s

/-! ### The interrupt latch -/

/-- Whether a line is pending. -/
def Latch.has (l : Latch) : Line → Bool
  | .nmi => l.nmi
  | .reset => l.reset
  | .irq => l.irq

/-- The latch with each line the predicate names added. -/
def Latch.addAll (l : Latch) (r : Line → Bool) : Latch :=
  { nmi := l.nmi || r .nmi, reset := l.reset || r .reset, irq := l.irq || r .irq }

/-- `Request(k)` (R311). -/
def Latch.request (l : Latch) (k : Line) : Latch := l.addAll (fun j => j == k)

/-- `Get()` (R312): the highest-priority pending line, NMI before RESET before IRQ. -/
def Latch.get (l : Latch) : Option Line :=
  if l.nmi then some .nmi
  else if l.reset then some .reset
  else if l.irq then some .irq
  else none

/-- `Service(k)` (R313): clears that line and no other. -/
def Latch.service (l : Latch) (k : Line) : Latch :=
  { nmi := l.nmi && k != .nmi, reset := l.reset && k != .reset, irq := l.irq && k != .irq }

/-- `Service(k)` on the machine's latch. -/
def clearLine (k : Line) (s : State) : State := { s with pending := s.pending.service k }

/-! ### Memory and the bus -/

/-- The described byte at an address, if any. -/
def Memory.byteAt : Memory → Nat → Option Byte
  | [], _ => none
  | c :: m, a => if c.1 = a then some c.2 else Memory.byteAt m a

/-- Describe a byte at an address, keeping the addresses strictly rising. -/
def Memory.put : Memory → Nat → Byte → Memory
  | [], a, v => [(a, v)]
  | c :: m, a, v =>
    if a < c.1 then (a, v) :: c :: m
    else if a = c.1 then (a, v) :: m
    else c :: Memory.put m a v

/-- The canonical form: addresses strictly rising and below 2^16 (R8, R70). -/
abbrev Memory.wf (m : Memory) : Prop :=
  m.Pairwise (fun c d => c.1 < d.1) ∧ ∀ c ∈ m, c.1 < 65536

/-- Whether a route covers an address. -/
def Route.covers (r : Route) (a : Word) : Bool :=
  decide (r.base ≤ a.toNat) && decide (a.toNat < r.base + r.size)

/-- Where a route that covers an address leads. -/
def Route.place (r : Route) (a : Word) : Place :=
  match r.backing with
  | .cells target period writable =>
    .cell (target + BitVec.ofNat 16 ((a.toNat - r.base) % period)) writable
  | .device => .device

/-- What an access of an address reaches (R62): the first route that covers it decides; an address that
none covers is its own writable cell (log 2). -/
def placeOf (s : State) (a : Word) : Place :=
  match s.routes.find? (fun r => r.covers a) with
  | some r => r.place a
  | none => .cell a true

/-- Whether the bus routes an address to the devices (R62). -/
def isDevice (s : State) (a : Word) : Bool := placeOf s a == .device

/-- Whether two addresses lead to one memory cell, as an address and its mirror do (R62). -/
def sharesCell (s : State) (a b : Word) : Bool :=
  match placeOf s a, placeOf s b with
  | .cell n _, .cell m _ => n == m
  | .cell _ _, .device => false
  | .device, .cell _ _ => false
  | .device, .device => false

/-- What is known of the byte at an address: the described content of its memory cell. `none` for an
address the devices answer and for a cell whose content is not described (R74). -/
def peek (s : State) (a : Word) : Option Byte :=
  match placeOf s a with
  | .cell n _ => s.mem.byteAt n.toNat
  | .device => none

/-- The address of a bus call. -/
def BusCall.addr : BusCall → Word
  | .read a => a
  | .write a _ => a

/-- What a call that reaches the devices leaves of their state, and the lines it asserts (R60). -/
def BusCall.act (c : BusCall) (d : List Nat) : List Nat × (Line → Bool) :=
  match c with
  | .read a => (Config.bus.read d a).2
  | .write a v => Config.bus.write d a v

/-- The devices' state after a call: a call that reaches a memory cell leaves it. -/
def devicesAfter (c : BusCall) (s : State) : List Nat :=
  if isDevice s c.addr then (c.act s.devices).1 else s.devices

/-- The latch after a call: each line that the devices assert is requested (R60). -/
def pendingAfter (c : BusCall) (s : State) : Latch :=
  if isDevice s c.addr then s.pending.addAll (c.act s.devices).2 else s.pending

/-- The traces every bus call leaves: the bus's record, the count of calls, what the devices do. -/
def noteCall (c : BusCall) (s : State) : State :=
  { s with
    busLog := c :: s.busLog, busCalls := s.busCalls + 1
    devices := devicesAfter c s, pending := pendingAfter c s }

/-- The byte a read of an address answers: the cell's described content, else any byte (R74, D30); from
the devices, what the bus answers in their state (R60). -/
def readByte (a : Word) (s : State) : Byte :=
  (peek s a).getD
    (if isDevice s a then (Config.bus.read s.devices a).1 else Config.freeByte s.busCalls)

/-- The state after a read of an address. -/
def afterRead (a : Word) (s : State) : State := noteCall (.read a) s

/-- `MemRead(a, 1)`: one call of the bus's read (R60). -/
def memRead (a : Word) (s : State) : Byte × State := (readByte a s, afterRead a s)

/-- The memory cells after a write: a writable cell takes the byte; a cell of ROM and the devices leave
every cell (log 2). -/
def memAfterWrite (a : Word) (v : Byte) (s : State) : Memory :=
  match placeOf s a with
  | .cell n true => s.mem.put n.toNat v
  | .cell _ false => s.mem
  | .device => s.mem

/-- `MemWrite(a, 1, v)`: one call of the bus's write (R60). -/
def memWrite (a : Word) (v : Byte) (s : State) : State :=
  { noteCall (.write a v) s with mem := memAfterWrite a v s }

/-- `MemRead16(a)` (R63): the low byte first (D2); the high byte at `a + 1` mod 2^16. -/
def memRead16 (a : Word) (s : State) : Word × State :=
  let lo := memRead a s
  let hi := memRead (a + 1) lo.2
  (concat hi.1 lo.1, hi.2)

/-- The address of the high byte of `MemRead16Zpg`: the next one, wrapping in the page (R64). -/
def nextInPage (a : Word) : Word := (a &&& 0xFF00) ||| ((a + 1) &&& 0x00FF)

/-- `MemRead16Zpg(a)` (R64). -/
def memRead16Zpg (a : Word) (s : State) : Word × State :=
  let lo := memRead a s
  let hi := memRead (nextInPage a) lo.2
  (concat hi.1 lo.1, hi.2)

/-! ### The stack -/

/-- The address of the stack slot that `S` names: `0x0100 | S` (R24, R72). -/
def stackAddr (sp : Byte) : Word := 0x0100 ||| zext sp

/-- `Push(v)` (R75): write, then decrement `S` mod 256. -/
def push (v : Byte) (s : State) : State :=
  let t := memWrite (stackAddr s.sp) v s
  setSp (t.sp - 1) t

/-- `Pull()` (R76): increment `S` mod 256, then read. -/
def pull (s : State) : Byte × State :=
  let t := setSp (s.sp + 1) s
  memRead (stackAddr t.sp) t

/-- `Push16(w)` (R77): high byte, then low. -/
def push16 (w : Word) (s : State) : State := push (lo8 w) (push (hi8 w) s)

/-- `Pull16()` (R78): low, then high. -/
def pull16 (s : State) : Word × State :=
  let lo := pull s
  let hi := pull lo.2
  (concat hi.1 lo.1, hi.2)

/-! ### Fetching -/

/-- `FetchByte()` (R121). -/
def fetchByte (s : State) : Byte × State :=
  let b := memRead s.pc s
  (b.1, advancePc 1 b.2)

/-- `FetchWord()` (R121). -/
def fetchWord (s : State) : Word × State :=
  let w := memRead16 s.pc s
  (w.1, advancePc 2 w.2)

/-- The instruction at `PC`, from the bytes the bus answers there one after another. This looks ahead
only: `commitFetch` makes the bus calls, so that each is made once, where the spec makes it (log 10). -/
def nextInstr (s : State) : Instr :=
  let b0 := fetchByte s
  let b1 := fetchByte b0.2
  let b2 := fetchByte b1.2
  decodeWindow b0.1 b1.1 b2.1

/-- The fetches of the opcode and of the operand bytes that the mode's resolution reads (R120 to
R122). Modes `imm` and `rel` pass over their operand byte without reading it (R134, R135). -/
def commitFetch (m : Mode) (s : State) : State :=
  let t := (fetchByte s).2
  match m with
  | .acc | .impl | .invalid => t
  | .imm | .rel => advancePc 1 t
  | .zpg | .zpgX | .zpgY | .xInd | .indY => (fetchByte t).2
  | .abs | .absX | .absY | .ind => (fetchWord t).2

/-! ### Taking an interrupt and returning from one -/

/-- The vector of a line (R73, R322); BRK uses IRQ's. -/
def vectorOf : Line → Word
  | .nmi => 0xFFFA
  | .reset => 0xFFFC
  | .irq => 0xFFFE

/-- The new `PC` of a service, and the state after the vector's reads: none with
`resetOverrideC000` (R322). -/
def loadVector (k : Line) (s : State) : Word × State :=
  if k == .reset && s.params.resetOverrideC000 then (0xC000, s) else memRead16 (vectorOf k) s

/-- The pushes of a service other than RESET's (R320): `PC`, then the status of R321. -/
def pushFrame (brk : Bool) (s : State) : State :=
  let t := push16 s.pc s
  push (pushedStatus t.params.hwPushClearsB brk t.p) t

/-- The rest of the service path (R320): `P.I <- 1`, 7 cycles, `PC` from the vector, the line cleared. -/
def enterHandler (k : Line) (s : State) : State :=
  let v := loadVector k (addCycles 7 (setFlag .I true s))
  clearLine k (setPc v.1 v.2)

/-- `ServiceInterrupt(k, brk)` (R320): the one way an interrupt is taken, BRK's too. -/
def serviceInterrupt (k : Line) (brk : Bool) (s : State) : Result :=
  match k with
  | .reset => .next (enterHandler .reset s)
  | .nmi | .irq =>
    if s.pcSet then .next (enterHandler k (pushFrame brk s)) else .fault .pcUnset

/-- The line that a step services at its entry, if any (R317, R318): the one `Get()` names, but an
IRQ only if `P.I = 0`. -/
def takenLine (s : State) : Option Line :=
  match s.pending.get with
  | some .irq => if getFlag .I s.p then none else some .irq
  | k => k

/-- Return from interrupt (R264, R327): `P <- Pull() | 0x20`, then `PC <- Pull16()`. -/
def returnFromInterrupt (s : State) : State :=
  let st := pull s
  let w := pull16 (setP (pulledStatus st.1) st.2)
  setPc w.1 w.2

/-! ### Placing an instruction -/

/-- A state whose very next step fetches the three given bytes at `PC` (log 7): running, `PC` holding a
value, no line to service first, the three addresses writable cells of their own. -/
def readyToFetch (b : Byte × Byte × Byte) (s : State) : State :=
  { s with
    run := .running
    pcSet := true
    pending := { nmi := false, reset := false, irq := s.pending.irq && getFlag .I s.p }
    routes := s.routes.filter
      (fun r => !(r.covers s.pc || r.covers (s.pc + 1) || r.covers (s.pc + 2)))
    mem := ((s.mem.put s.pc.toNat b.1).put (s.pc + 1).toNat b.2.1).put (s.pc + 2).toNat b.2.2 }

end Sys2Proof.Machine
end

