-- ==== Sys2Proof/Machine/Operands.lean ====
section
/-! DEFINITION. Operand address resolution for the addressing modes (spec/40_step_and_addressing.md R124
to R139), operand access (R141), and the shapes that the instructions share. `PC` is past the
instruction's bytes throughout (R122). -/

namespace Sys2Proof.Machine

/-- The target of R124. `operand ea m` is the address of an operand byte that the resolution passed
over (modes `imm` and `rel`) with the byte the bus answers there (log 10). -/
inductive Target where
  | addr (ea : Word)
  | operand (ea : Word) (m : Byte)
  | acc
  | none
deriving DecidableEq, Repr

/-- What resolution gives: the target, whether an indexed address crossed a page, and the state after
the pointer reads. -/
structure Resolved where
  target : Target
  crossed : Bool
  st : State

/-- A base address indexed by a register, mod 2^16, with the page test of R139. -/
def indexed (base : Word) (index : Byte) (s : State) : Resolved :=
  let ea := base + zext index
  { target := .addr ea, crossed := page base != page ea, st := s }

/-- An address that needs no index. -/
def direct (ea : Word) (s : State) : Resolved := { target := .addr ea, crossed := false, st := s }

/-- `Resolve(mode)` after its operand fetch (R125 to R138). -/
def resolve (f : Form) (s : State) : Resolved :=
  match f with
  | .abs w => direct w s
  | .absX w => indexed w s.x s
  | .absY w => indexed w s.y s
  | .ind w =>
    let ptr := memRead16Zpg w s
    direct ptr.1 ptr.2
  | .xInd o =>
    let ptr := memRead16Zpg (zext (o + s.x)) s
    direct ptr.1 ptr.2
  | .indY o =>
    let ptr := memRead16Zpg (zext o) s
    indexed ptr.1 s.y ptr.2
  | .zpg o => direct (zext o) s
  | .zpgX o => direct (zext (o + s.x)) s
  | .zpgY o => direct (zext (o + s.y)) s
  | .rel o | .imm o => { target := .operand (s.pc - 1) o, crossed := false, st := s }
  | .acc => { target := .acc, crossed := false, st := s }
  | .impl | .invalid _ => { target := .none, crossed := false, st := s }

/-- The byte `ReadOperand(t)` gives (R141). No instruction reads target `none` (R141): the value there
is free (log 19). -/
def operandByte (t : Target) (s : State) : Byte :=
  match t with
  | .addr ea => readByte ea s
  | .operand _ m => m
  | .acc => s.a
  | .none => Config.freeByte s.busCalls

/-- The state after `ReadOperand(t)`: a memory target costs one bus read (R141, R145). -/
def afterOperand (t : Target) (s : State) : State :=
  match t with
  | .addr ea => afterRead ea s
  | .operand ea _ => afterRead ea s
  | .acc => s
  | .none => s

/-- `WriteOperand(t, v)` (R141). No instruction writes an operand byte of its own or target `none`. -/
def writeOperand (t : Target) (v : Byte) (s : State) : State :=
  match t with
  | .addr ea => memWrite ea v s
  | .acc => setA v s
  | .operand _ _ => s
  | .none => s

/-- An instruction that reads one operand byte and acts on it: `act` gets the byte and the state after
the read (R160, R200). -/
def execRead (op : Byte) (f : Form) (act : Byte → State → State) (s : State) : Result :=
  let r := resolve f s
  let t := addCycles (crossCycles s.params op r.crossed) r.st
  let done := act (operandByte r.target t) (afterOperand r.target t)
  .next (addCycles (baseCycles s.params op) done)

/-- An instruction that stores one byte (R164): no read of the address, never a page-cross cycle
(R97, R139). -/
def execStore (op : Byte) (f : Form) (v : Byte) (s : State) : Result :=
  let r := resolve f s
  .next (addCycles (baseCycles s.params op) (writeOperand r.target v r.st))

/-- A read-modify-write instruction (R230): one read, one write of the same target; `act` gives the
result and the status byte from the operand and the old status byte. -/
def execModify (op : Byte) (f : Form) (act : Byte → Byte → Byte × Byte) (s : State) : Result :=
  let r := resolve f s
  let t := addCycles (crossCycles s.params op r.crossed) r.st
  let out := act (operandByte r.target t) t.p
  let done := setP out.2 (writeOperand r.target out.1 (afterOperand r.target t))
  .next (addCycles (baseCycles s.params op) done)

/-- An instruction of mode `impl` (R137). -/
def execImplied (op : Byte) (act : State → State) (s : State) : Result :=
  .next (addCycles (baseCycles s.params op) (act s))

/-- `Branch(cond)` with offset byte `o` (R270): not taken, no effect and no read of the offset (D17);
taken, the offset byte is read, 1 cycle or 3 are charged, and `PC` moves. -/
def branch (cond : Bool) (o : Byte) (s : State) : State :=
  if cond then
    let r := resolve (.rel o) s
    let off := operandByte r.target r.st
    let t := afterOperand r.target r.st
    let dest := t.pc + sext off
    setPc dest (addCycles (branchCycles t.pc dest) t)
  else s

/-- A branch instruction that takes its branch when a flag has the given value. -/
def execBranch (op : Byte) (fl : Flag) (want : Bool) (o : Byte) (s : State) : Result :=
  .next (addCycles (baseCycles s.params op) (branch (getFlag fl s.p == want) o s))

/-- `r <- v; SetZN(r)` for a register written by `set`. -/
def loadReg (set : Byte → State → State) (v : Byte) (s : State) : State :=
  setP (setZN v s.p) (set v s)

end Sys2Proof.Machine
end

