-- ==== Sys2Proof/Machine/Arith.lean ====
section
/-! DEFINITION. The logical, arithmetic and compare instructions (spec/43_logical_arith_compare.md R201 to
R209). -/

namespace Sys2Proof.Machine

/-- `A <- A & M; SetZN(A)` (R201). -/
def andA (m : Byte) (s : State) : State := loadReg setA (s.a &&& m) s

/-- `A <- A | M; SetZN(A)` (R202). -/
def orA (m : Byte) (s : State) : State := loadReg setA (s.a ||| m) s

/-- `A <- A ^ M; SetZN(A)` (R203). -/
def eorA (m : Byte) (s : State) : State := loadReg setA (s.a ^^^ m) s

/-- BIT's effect (R204): the flags only. -/
def bitA (m : Byte) (s : State) : State := setP (bitFlags s.a m s.p) s

/-- ADC's effect (R205): flags from the old `A` and `C`, then `A`. -/
def adcA (m : Byte) (s : State) : State := setA (adcOut s.a m s.p) (setP (adcFlags s.a m s.p) s)

/-- SBC's effect (R206): flags from the old `A` and `C`, then `A`. -/
def sbcA (m : Byte) (s : State) : State := setA (sbcOut s.a m s.p) (setP (sbcFlags s.a m s.p) s)

/-- The effect of a compare with the value `r` of a register (R207 to R209): the flags only. -/
def cmpReg (r m : Byte) (s : State) : State := setP (cmpFlags r m s.p) s

/-- AND imm, opcode `29` (R201, R135). -/
def execAndImm (o : Byte) (s : State) : Result := execRead 0x29 (.imm o) andA s

/-- AND zpg, opcode `25` (R201, R131). -/
def execAndZpg (o : Byte) (s : State) : Result := execRead 0x25 (.zpg o) andA s

/-- AND zpgX, opcode `35` (R201, R132). -/
def execAndZpgX (o : Byte) (s : State) : Result := execRead 0x35 (.zpgX o) andA s

/-- AND abs, opcode `2D` (R201, R125). -/
def execAndAbs (w : Word) (s : State) : Result := execRead 0x2D (.abs w) andA s

/-- AND absX, opcode `3D` (R201, R126). -/
def execAndAbsX (w : Word) (s : State) : Result := execRead 0x3D (.absX w) andA s

/-- AND absY, opcode `39` (R201, R127). -/
def execAndAbsY (w : Word) (s : State) : Result := execRead 0x39 (.absY w) andA s

/-- AND Xind, opcode `21` (R201, R129). -/
def execAndXInd (o : Byte) (s : State) : Result := execRead 0x21 (.xInd o) andA s

/-- AND indY, opcode `31` (R201, R130). -/
def execAndIndY (o : Byte) (s : State) : Result := execRead 0x31 (.indY o) andA s

/-- ORA imm, opcode `09` (R202, R135). -/
def execOraImm (o : Byte) (s : State) : Result := execRead 0x09 (.imm o) orA s

/-- ORA zpg, opcode `05` (R202, R131). -/
def execOraZpg (o : Byte) (s : State) : Result := execRead 0x05 (.zpg o) orA s

/-- ORA zpgX, opcode `15` (R202, R132). -/
def execOraZpgX (o : Byte) (s : State) : Result := execRead 0x15 (.zpgX o) orA s

/-- ORA abs, opcode `0D` (R202, R125). -/
def execOraAbs (w : Word) (s : State) : Result := execRead 0x0D (.abs w) orA s

/-- ORA absX, opcode `1D` (R202, R126). -/
def execOraAbsX (w : Word) (s : State) : Result := execRead 0x1D (.absX w) orA s

/-- ORA absY, opcode `19` (R202, R127). -/
def execOraAbsY (w : Word) (s : State) : Result := execRead 0x19 (.absY w) orA s

/-- ORA Xind, opcode `01` (R202, R129). -/
def execOraXInd (o : Byte) (s : State) : Result := execRead 0x01 (.xInd o) orA s

/-- ORA indY, opcode `11` (R202, R130). -/
def execOraIndY (o : Byte) (s : State) : Result := execRead 0x11 (.indY o) orA s

/-- EOR imm, opcode `49` (R203, R135). -/
def execEorImm (o : Byte) (s : State) : Result := execRead 0x49 (.imm o) eorA s

/-- EOR zpg, opcode `45` (R203, R131). -/
def execEorZpg (o : Byte) (s : State) : Result := execRead 0x45 (.zpg o) eorA s

/-- EOR zpgX, opcode `55` (R203, R132). -/
def execEorZpgX (o : Byte) (s : State) : Result := execRead 0x55 (.zpgX o) eorA s

/-- EOR abs, opcode `4D` (R203, R125). -/
def execEorAbs (w : Word) (s : State) : Result := execRead 0x4D (.abs w) eorA s

/-- EOR absX, opcode `5D` (R203, R126). -/
def execEorAbsX (w : Word) (s : State) : Result := execRead 0x5D (.absX w) eorA s

/-- EOR absY, opcode `59` (R203, R127). -/
def execEorAbsY (w : Word) (s : State) : Result := execRead 0x59 (.absY w) eorA s

/-- EOR Xind, opcode `41` (R203, R129). -/
def execEorXInd (o : Byte) (s : State) : Result := execRead 0x41 (.xInd o) eorA s

/-- EOR indY, opcode `51` (R203, R130). -/
def execEorIndY (o : Byte) (s : State) : Result := execRead 0x51 (.indY o) eorA s

/-- BIT zpg, opcode `24` (R204, R131). -/
def execBitZpg (o : Byte) (s : State) : Result := execRead 0x24 (.zpg o) bitA s

/-- BIT abs, opcode `2C` (R204, R125). -/
def execBitAbs (w : Word) (s : State) : Result := execRead 0x2C (.abs w) bitA s

/-- ADC imm, opcode `69` (R205, R135). -/
def execAdcImm (o : Byte) (s : State) : Result := execRead 0x69 (.imm o) adcA s

/-- ADC zpg, opcode `65` (R205, R131). -/
def execAdcZpg (o : Byte) (s : State) : Result := execRead 0x65 (.zpg o) adcA s

/-- ADC zpgX, opcode `75` (R205, R132). -/
def execAdcZpgX (o : Byte) (s : State) : Result := execRead 0x75 (.zpgX o) adcA s

/-- ADC abs, opcode `6D` (R205, R125). -/
def execAdcAbs (w : Word) (s : State) : Result := execRead 0x6D (.abs w) adcA s

/-- ADC absX, opcode `7D` (R205, R126). -/
def execAdcAbsX (w : Word) (s : State) : Result := execRead 0x7D (.absX w) adcA s

/-- ADC absY, opcode `79` (R205, R127). -/
def execAdcAbsY (w : Word) (s : State) : Result := execRead 0x79 (.absY w) adcA s

/-- ADC Xind, opcode `61` (R205, R129). -/
def execAdcXInd (o : Byte) (s : State) : Result := execRead 0x61 (.xInd o) adcA s

/-- ADC indY, opcode `71` (R205, R130). -/
def execAdcIndY (o : Byte) (s : State) : Result := execRead 0x71 (.indY o) adcA s

/-- SBC imm, opcode `E9` (R206, R135). -/
def execSbcImm (o : Byte) (s : State) : Result := execRead 0xE9 (.imm o) sbcA s

/-- SBC zpg, opcode `E5` (R206, R131). -/
def execSbcZpg (o : Byte) (s : State) : Result := execRead 0xE5 (.zpg o) sbcA s

/-- SBC zpgX, opcode `F5` (R206, R132). -/
def execSbcZpgX (o : Byte) (s : State) : Result := execRead 0xF5 (.zpgX o) sbcA s

/-- SBC abs, opcode `ED` (R206, R125). -/
def execSbcAbs (w : Word) (s : State) : Result := execRead 0xED (.abs w) sbcA s

/-- SBC absX, opcode `FD` (R206, R126). -/
def execSbcAbsX (w : Word) (s : State) : Result := execRead 0xFD (.absX w) sbcA s

/-- SBC absY, opcode `F9` (R206, R127). -/
def execSbcAbsY (w : Word) (s : State) : Result := execRead 0xF9 (.absY w) sbcA s

/-- SBC Xind, opcode `E1` (R206, R129). -/
def execSbcXInd (o : Byte) (s : State) : Result := execRead 0xE1 (.xInd o) sbcA s

/-- SBC indY, opcode `F1` (R206, R130). -/
def execSbcIndY (o : Byte) (s : State) : Result := execRead 0xF1 (.indY o) sbcA s

/-- CMP imm, opcode `C9` (R207, R135). -/
def execCmpImm (o : Byte) (s : State) : Result :=
  execRead 0xC9 (.imm o) (fun m t => cmpReg t.a m t) s

/-- CMP zpg, opcode `C5` (R207, R131). -/
def execCmpZpg (o : Byte) (s : State) : Result :=
  execRead 0xC5 (.zpg o) (fun m t => cmpReg t.a m t) s

/-- CMP zpgX, opcode `D5` (R207, R132). -/
def execCmpZpgX (o : Byte) (s : State) : Result :=
  execRead 0xD5 (.zpgX o) (fun m t => cmpReg t.a m t) s

/-- CMP abs, opcode `CD` (R207, R125). -/
def execCmpAbs (w : Word) (s : State) : Result :=
  execRead 0xCD (.abs w) (fun m t => cmpReg t.a m t) s

/-- CMP absX, opcode `DD` (R207, R126). -/
def execCmpAbsX (w : Word) (s : State) : Result :=
  execRead 0xDD (.absX w) (fun m t => cmpReg t.a m t) s

/-- CMP absY, opcode `D9` (R207, R127). -/
def execCmpAbsY (w : Word) (s : State) : Result :=
  execRead 0xD9 (.absY w) (fun m t => cmpReg t.a m t) s

/-- CMP Xind, opcode `C1` (R207, R129). -/
def execCmpXInd (o : Byte) (s : State) : Result :=
  execRead 0xC1 (.xInd o) (fun m t => cmpReg t.a m t) s

/-- CMP indY, opcode `D1` (R207, R130). -/
def execCmpIndY (o : Byte) (s : State) : Result :=
  execRead 0xD1 (.indY o) (fun m t => cmpReg t.a m t) s

/-- CPX imm, opcode `E0` (R208, R135). -/
def execCpxImm (o : Byte) (s : State) : Result :=
  execRead 0xE0 (.imm o) (fun m t => cmpReg t.x m t) s

/-- CPX zpg, opcode `E4` (R208, R131). -/
def execCpxZpg (o : Byte) (s : State) : Result :=
  execRead 0xE4 (.zpg o) (fun m t => cmpReg t.x m t) s

/-- CPX abs, opcode `EC` (R208, R125). -/
def execCpxAbs (w : Word) (s : State) : Result :=
  execRead 0xEC (.abs w) (fun m t => cmpReg t.x m t) s

/-- CPY imm, opcode `C0` (R209, R135). -/
def execCpyImm (o : Byte) (s : State) : Result :=
  execRead 0xC0 (.imm o) (fun m t => cmpReg t.y m t) s

/-- CPY zpg, opcode `C4` (R209, R131). -/
def execCpyZpg (o : Byte) (s : State) : Result :=
  execRead 0xC4 (.zpg o) (fun m t => cmpReg t.y m t) s

/-- CPY abs, opcode `CC` (R209, R125). -/
def execCpyAbs (w : Word) (s : State) : Result :=
  execRead 0xCC (.abs w) (fun m t => cmpReg t.y m t) s

end Sys2Proof.Machine
end

