-- ==== Sys2Proof/Machine/Control.lean ====
section
/-! DEFINITION. Jumps, subroutines, return from interrupt and branches (spec/45_control.md R261 to R278). -/

namespace Sys2Proof.Machine

/-- `PC <- ea` for the target of a jump's form; nothing is read at `ea` (R261). -/
def jumpTo (f : Form) (s : State) : State :=
  let r := resolve f s
  match r.target with
  | .addr ea => setPc ea r.st
  | .operand _ _ | .acc | .none => r.st

/-- `Push16(PC - 1); PC <- ea` (R262). -/
def callSub (ea : Word) (s : State) : State := setPc ea (push16 (s.pc - 1) s)

/-- `PC <- Pull16() + 1` (R263). -/
def returnSub (s : State) : State :=
  let w := pull16 s
  setPc (w.1 + 1) w.2

/-- JMP abs, opcode `4C` (R261, R125). -/
def execJmpAbs (w : Word) (s : State) : Result := execImplied 0x4C (jumpTo (.abs w)) s

/-- JMP ind, opcode `6C` (R261, R128). -/
def execJmpInd (w : Word) (s : State) : Result := execImplied 0x6C (jumpTo (.ind w)) s

/-- JSR abs, opcode `20` (R262, R125). -/
def execJsr (w : Word) (s : State) : Result := execImplied 0x20 (callSub w) s

/-- RTS impl, opcode `60` (R263, R137). -/
def execRts (s : State) : Result := execImplied 0x60 returnSub s

/-- RTI impl, opcode `40` (R264, R137). -/
def execRti (s : State) : Result := execImplied 0x40 returnFromInterrupt s

/-- BCC rel, opcode `90` (R271, R134). -/
def execBcc (o : Byte) (s : State) : Result := execBranch 0x90 .C false o s

/-- BCS rel, opcode `B0` (R272, R134). -/
def execBcs (o : Byte) (s : State) : Result := execBranch 0xB0 .C true o s

/-- BEQ rel, opcode `F0` (R273, R134). -/
def execBeq (o : Byte) (s : State) : Result := execBranch 0xF0 .Z true o s

/-- BMI rel, opcode `30` (R274, R134). -/
def execBmi (o : Byte) (s : State) : Result := execBranch 0x30 .N true o s

/-- BNE rel, opcode `D0` (R275, R134). -/
def execBne (o : Byte) (s : State) : Result := execBranch 0xD0 .Z false o s

/-- BPL rel, opcode `10` (R276, R134). -/
def execBpl (o : Byte) (s : State) : Result := execBranch 0x10 .N false o s

/-- BVC rel, opcode `50` (R277, R134). -/
def execBvc (o : Byte) (s : State) : Result := execBranch 0x50 .V false o s

/-- BVS rel, opcode `70` (R278, R134). -/
def execBvs (o : Byte) (s : State) : Result := execBranch 0x70 .V true o s

end Sys2Proof.Machine
end

