-- ==== Sys2Proof/Machine/FlagsMisc.lean ====
section
/-! DEFINITION. The flag instructions, BRK and NOP (spec/46_flags_misc.md R291 to R299), and the undefined
bytes (spec/60_exceptions.md R330). -/

namespace Sys2Proof.Machine

/-- CLC impl, opcode `18` (R291, R137). -/
def execClc (s : State) : Result := execImplied 0x18 (setFlag .C false) s

/-- SEC impl, opcode `38` (R292, R137). -/
def execSec (s : State) : Result := execImplied 0x38 (setFlag .C true) s

/-- CLI impl, opcode `58` (R293, R137). -/
def execCli (s : State) : Result := execImplied 0x58 (setFlag .I false) s

/-- SEI impl, opcode `78` (R294, R137). -/
def execSei (s : State) : Result := execImplied 0x78 (setFlag .I true) s

/-- CLD impl, opcode `D8` (R295, R137). -/
def execCld (s : State) : Result := execImplied 0xD8 (setFlag .D false) s

/-- SED impl, opcode `F8` (R296, R137). -/
def execSed (s : State) : Result := execImplied 0xF8 (setFlag .D true) s

/-- CLV impl, opcode `B8` (R297, R137). -/
def execClv (s : State) : Result := execImplied 0xB8 (setFlag .V false) s

/-- BRK impl, opcode `00` (R298): the IRQ service path whatever `P.I` is, then the base count (0 in
table 3, D11). -/
def execBrk (s : State) : Result :=
  match serviceInterrupt .irq true s with
  | .next t => .next (addCycles (baseCycles s.params 0x00) t)
  | .fault e => .fault e
  | .refused e => .refused e

/-- NOP impl, opcode `EA` (R299, R137). -/
def execNop (s : State) : Result := execImplied 0xEA id s

/-- `run <- Halted` (R330). -/
def halt (s : State) : State := { s with run := .halted }

/-- One of the 105 undefined bytes (R100, R330): the core halts; `PC` stays past the byte and no
cycle is charged (D13). -/
def execUndefinedHalt (_op : Byte) (s : State) : Result := .next (halt s)

end Sys2Proof.Machine
end

