-- ==== Sys2Proof/Machine/IncDecShift.lean ====
section
/-! DEFINITION. The increment, decrement, shift and rotate instructions (spec/44_incdec_shift.md R231 to
R240). -/

namespace Sys2Proof.Machine

/-- INC zpg, opcode `E6` (R231, R131). -/
def execIncZpg (o : Byte) (s : State) : Result := execModify 0xE6 (.zpg o) inc s

/-- INC zpgX, opcode `F6` (R231, R132). -/
def execIncZpgX (o : Byte) (s : State) : Result := execModify 0xF6 (.zpgX o) inc s

/-- INC abs, opcode `EE` (R231, R125). -/
def execIncAbs (w : Word) (s : State) : Result := execModify 0xEE (.abs w) inc s

/-- INC absX, opcode `FE` (R231, R126). -/
def execIncAbsX (w : Word) (s : State) : Result := execModify 0xFE (.absX w) inc s

/-- DEC zpg, opcode `C6` (R232, R131). -/
def execDecZpg (o : Byte) (s : State) : Result := execModify 0xC6 (.zpg o) dec s

/-- DEC zpgX, opcode `D6` (R232, R132). -/
def execDecZpgX (o : Byte) (s : State) : Result := execModify 0xD6 (.zpgX o) dec s

/-- DEC abs, opcode `CE` (R232, R125). -/
def execDecAbs (w : Word) (s : State) : Result := execModify 0xCE (.abs w) dec s

/-- DEC absX, opcode `DE` (R232, R126). -/
def execDecAbsX (w : Word) (s : State) : Result := execModify 0xDE (.absX w) dec s

/-- INX impl, opcode `E8` (R233, R137). -/
def execInx (s : State) : Result := execImplied 0xE8 (fun t => loadReg setX (t.x + 1) t) s

/-- INY impl, opcode `C8` (R234, R137). -/
def execIny (s : State) : Result := execImplied 0xC8 (fun t => loadReg setY (t.y + 1) t) s

/-- DEX impl, opcode `CA` (R235, R137). -/
def execDex (s : State) : Result := execImplied 0xCA (fun t => loadReg setX (t.x - 1) t) s

/-- DEY impl, opcode `88` (R236, R137). -/
def execDey (s : State) : Result := execImplied 0x88 (fun t => loadReg setY (t.y - 1) t) s

/-- ASL acc, opcode `0A` (R237, R136). -/
def execAslAcc (s : State) : Result := execModify 0x0A .acc asl s

/-- ASL zpg, opcode `06` (R237, R131). -/
def execAslZpg (o : Byte) (s : State) : Result := execModify 0x06 (.zpg o) asl s

/-- ASL zpgX, opcode `16` (R237, R132). -/
def execAslZpgX (o : Byte) (s : State) : Result := execModify 0x16 (.zpgX o) asl s

/-- ASL abs, opcode `0E` (R237, R125). -/
def execAslAbs (w : Word) (s : State) : Result := execModify 0x0E (.abs w) asl s

/-- ASL absX, opcode `1E` (R237, R126). -/
def execAslAbsX (w : Word) (s : State) : Result := execModify 0x1E (.absX w) asl s

/-- LSR acc, opcode `4A` (R238, R136). -/
def execLsrAcc (s : State) : Result := execModify 0x4A .acc lsr s

/-- LSR zpg, opcode `46` (R238, R131). -/
def execLsrZpg (o : Byte) (s : State) : Result := execModify 0x46 (.zpg o) lsr s

/-- LSR zpgX, opcode `56` (R238, R132). -/
def execLsrZpgX (o : Byte) (s : State) : Result := execModify 0x56 (.zpgX o) lsr s

/-- LSR abs, opcode `4E` (R238, R125). -/
def execLsrAbs (w : Word) (s : State) : Result := execModify 0x4E (.abs w) lsr s

/-- LSR absX, opcode `5E` (R238, R126). -/
def execLsrAbsX (w : Word) (s : State) : Result := execModify 0x5E (.absX w) lsr s

/-- ROL acc, opcode `2A` (R239, R136). -/
def execRolAcc (s : State) : Result := execModify 0x2A .acc rol s

/-- ROL zpg, opcode `26` (R239, R131). -/
def execRolZpg (o : Byte) (s : State) : Result := execModify 0x26 (.zpg o) rol s

/-- ROL zpgX, opcode `36` (R239, R132). -/
def execRolZpgX (o : Byte) (s : State) : Result := execModify 0x36 (.zpgX o) rol s

/-- ROL abs, opcode `2E` (R239, R125). -/
def execRolAbs (w : Word) (s : State) : Result := execModify 0x2E (.abs w) rol s

/-- ROL absX, opcode `3E` (R239, R126). -/
def execRolAbsX (w : Word) (s : State) : Result := execModify 0x3E (.absX w) rol s

/-- ROR acc, opcode `6A` (R240, R136). -/
def execRorAcc (s : State) : Result := execModify 0x6A .acc ror s

/-- ROR zpg, opcode `66` (R240, R131). -/
def execRorZpg (o : Byte) (s : State) : Result := execModify 0x66 (.zpg o) ror s

/-- ROR zpgX, opcode `76` (R240, R132). -/
def execRorZpgX (o : Byte) (s : State) : Result := execModify 0x76 (.zpgX o) ror s

/-- ROR abs, opcode `6E` (R240, R125). -/
def execRorAbs (w : Word) (s : State) : Result := execModify 0x6E (.abs w) ror s

/-- ROR absX, opcode `7E` (R240, R126). -/
def execRorAbsX (w : Word) (s : State) : Result := execModify 0x7E (.absX w) ror s

end Sys2Proof.Machine
end

