-- ==== Sys2Proof/Machine/LoadStore.lean ====
section
/-! DEFINITION. The load and store instructions (spec/41_load_store.md R161 to R166). -/

namespace Sys2Proof.Machine

/-- LDA imm, opcode `A9` (R161, R135). -/
def execLdaImm (o : Byte) (s : State) : Result := execRead 0xA9 (.imm o) (loadReg setA) s

/-- LDA zpg, opcode `A5` (R161, R131). -/
def execLdaZpg (o : Byte) (s : State) : Result := execRead 0xA5 (.zpg o) (loadReg setA) s

/-- LDA zpgX, opcode `B5` (R161, R132). -/
def execLdaZpgX (o : Byte) (s : State) : Result := execRead 0xB5 (.zpgX o) (loadReg setA) s

/-- LDA abs, opcode `AD` (R161, R125). -/
def execLdaAbs (w : Word) (s : State) : Result := execRead 0xAD (.abs w) (loadReg setA) s

/-- LDA absX, opcode `BD` (R161, R126). -/
def execLdaAbsX (w : Word) (s : State) : Result := execRead 0xBD (.absX w) (loadReg setA) s

/-- LDA absY, opcode `B9` (R161, R127). -/
def execLdaAbsY (w : Word) (s : State) : Result := execRead 0xB9 (.absY w) (loadReg setA) s

/-- LDA Xind, opcode `A1` (R161, R129). -/
def execLdaXInd (o : Byte) (s : State) : Result := execRead 0xA1 (.xInd o) (loadReg setA) s

/-- LDA indY, opcode `B1` (R161, R130). -/
def execLdaIndY (o : Byte) (s : State) : Result := execRead 0xB1 (.indY o) (loadReg setA) s

/-- LDX imm, opcode `A2` (R162, R135). -/
def execLdxImm (o : Byte) (s : State) : Result := execRead 0xA2 (.imm o) (loadReg setX) s

/-- LDX zpg, opcode `A6` (R162, R131). -/
def execLdxZpg (o : Byte) (s : State) : Result := execRead 0xA6 (.zpg o) (loadReg setX) s

/-- LDX zpgY, opcode `B6` (R162, R133). -/
def execLdxZpgY (o : Byte) (s : State) : Result := execRead 0xB6 (.zpgY o) (loadReg setX) s

/-- LDX abs, opcode `AE` (R162, R125). -/
def execLdxAbs (w : Word) (s : State) : Result := execRead 0xAE (.abs w) (loadReg setX) s

/-- LDX absY, opcode `BE` (R162, R127). -/
def execLdxAbsY (w : Word) (s : State) : Result := execRead 0xBE (.absY w) (loadReg setX) s

/-- LDY imm, opcode `A0` (R163, R135). -/
def execLdyImm (o : Byte) (s : State) : Result := execRead 0xA0 (.imm o) (loadReg setY) s

/-- LDY zpg, opcode `A4` (R163, R131). -/
def execLdyZpg (o : Byte) (s : State) : Result := execRead 0xA4 (.zpg o) (loadReg setY) s

/-- LDY zpgX, opcode `B4` (R163, R132). -/
def execLdyZpgX (o : Byte) (s : State) : Result := execRead 0xB4 (.zpgX o) (loadReg setY) s

/-- LDY abs, opcode `AC` (R163, R125). -/
def execLdyAbs (w : Word) (s : State) : Result := execRead 0xAC (.abs w) (loadReg setY) s

/-- LDY absX, opcode `BC` (R163, R126). -/
def execLdyAbsX (w : Word) (s : State) : Result := execRead 0xBC (.absX w) (loadReg setY) s

/-- STA zpg, opcode `85` (R164, R131). -/
def execStaZpg (o : Byte) (s : State) : Result := execStore 0x85 (.zpg o) s.a s

/-- STA zpgX, opcode `95` (R164, R132). -/
def execStaZpgX (o : Byte) (s : State) : Result := execStore 0x95 (.zpgX o) s.a s

/-- STA abs, opcode `8D` (R164, R125). -/
def execStaAbs (w : Word) (s : State) : Result := execStore 0x8D (.abs w) s.a s

/-- STA absX, opcode `9D` (R164, R126). -/
def execStaAbsX (w : Word) (s : State) : Result := execStore 0x9D (.absX w) s.a s

/-- STA absY, opcode `99` (R164, R127). -/
def execStaAbsY (w : Word) (s : State) : Result := execStore 0x99 (.absY w) s.a s

/-- STA Xind, opcode `81` (R164, R129). -/
def execStaXInd (o : Byte) (s : State) : Result := execStore 0x81 (.xInd o) s.a s

/-- STA indY, opcode `91` (R164, R130). -/
def execStaIndY (o : Byte) (s : State) : Result := execStore 0x91 (.indY o) s.a s

/-- STX zpg, opcode `86` (R165, R131). -/
def execStxZpg (o : Byte) (s : State) : Result := execStore 0x86 (.zpg o) s.x s

/-- STX zpgY, opcode `96` (R165, R133). -/
def execStxZpgY (o : Byte) (s : State) : Result := execStore 0x96 (.zpgY o) s.x s

/-- STX abs, opcode `8E` (R165, R125). -/
def execStxAbs (w : Word) (s : State) : Result := execStore 0x8E (.abs w) s.x s

/-- STY zpg, opcode `84` (R166, R131). -/
def execStyZpg (o : Byte) (s : State) : Result := execStore 0x84 (.zpg o) s.y s

/-- STY zpgX, opcode `94` (R166, R132). -/
def execStyZpgX (o : Byte) (s : State) : Result := execStore 0x94 (.zpgX o) s.y s

/-- STY abs, opcode `8C` (R166, R125). -/
def execStyAbs (w : Word) (s : State) : Result := execStore 0x8C (.abs w) s.y s

end Sys2Proof.Machine
end

