-- ==== Sys2Proof/Machine/TransferStack.lean ====
section
/-! DEFINITION. The transfer and stack instructions (spec/42_transfer_stack.md R181 to R190). -/

namespace Sys2Proof.Machine

/-- `A <- Pull(); SetZN(A)` (R188). -/
def pullA (s : State) : State :=
  let v := pull s
  loadReg setA v.1 v.2

/-- `P <- Pull() | 0x20` (R190). -/
def pullP (s : State) : State :=
  let v := pull s
  setP (pulledStatus v.1) v.2

/-- TAX impl, opcode `AA` (R181, R137). -/
def execTax (s : State) : Result := execImplied 0xAA (fun t => loadReg setX t.a t) s

/-- TAY impl, opcode `A8` (R182, R137). -/
def execTay (s : State) : Result := execImplied 0xA8 (fun t => loadReg setY t.a t) s

/-- TXA impl, opcode `8A` (R183, R137). -/
def execTxa (s : State) : Result := execImplied 0x8A (fun t => loadReg setA t.x t) s

/-- TYA impl, opcode `98` (R184, R137). -/
def execTya (s : State) : Result := execImplied 0x98 (fun t => loadReg setA t.y t) s

/-- TSX impl, opcode `BA` (R185, R137). -/
def execTsx (s : State) : Result := execImplied 0xBA (fun t => loadReg setX t.sp t) s

/-- TXS impl, opcode `9A` (R186, R137). -/
def execTxs (s : State) : Result := execImplied 0x9A (fun t => setSp t.x t) s

/-- PHA impl, opcode `48` (R187, R137). -/
def execPha (s : State) : Result := execImplied 0x48 (fun t => push t.a t) s

/-- PLA impl, opcode `68` (R188, R137). -/
def execPla (s : State) : Result := execImplied 0x68 pullA s

/-- PHP impl, opcode `08` (R189, R137). -/
def execPhp (s : State) : Result := execImplied 0x08 (fun t => push t.p t) s

/-- PLP impl, opcode `28` (R190, R137). -/
def execPlp (s : State) : Result := execImplied 0x28 pullP s

end Sys2Proof.Machine
end

