-- ==== Sys2Proof/Machine/Dispatch.lean ====
section
/-! DEFINITION. `Execute` (spec/40_step_and_addressing.md R142): one arm for each row of the opcode
table, each a direct call of its meaning. `PC` is past the instruction's bytes (R122). -/

namespace Sys2Proof.Machine

def exec (i : Instr) (s : State) : Host.Outcome State Fault Refusal :=
  match i with
  -- Loads and stores (spec/41_load_store.md)
  | .ldaImm o => Sys2Proof.Machine.execLdaImm o s
  | .ldaZpg o => Sys2Proof.Machine.execLdaZpg o s
  | .ldaZpgX o => Sys2Proof.Machine.execLdaZpgX o s
  | .ldaAbs w => Sys2Proof.Machine.execLdaAbs w s
  | .ldaAbsX w => Sys2Proof.Machine.execLdaAbsX w s
  | .ldaAbsY w => Sys2Proof.Machine.execLdaAbsY w s
  | .ldaXInd o => Sys2Proof.Machine.execLdaXInd o s
  | .ldaIndY o => Sys2Proof.Machine.execLdaIndY o s
  | .ldxImm o => Sys2Proof.Machine.execLdxImm o s
  | .ldxZpg o => Sys2Proof.Machine.execLdxZpg o s
  | .ldxZpgY o => Sys2Proof.Machine.execLdxZpgY o s
  | .ldxAbs w => Sys2Proof.Machine.execLdxAbs w s
  | .ldxAbsY w => Sys2Proof.Machine.execLdxAbsY w s
  | .ldyImm o => Sys2Proof.Machine.execLdyImm o s
  | .ldyZpg o => Sys2Proof.Machine.execLdyZpg o s
  | .ldyZpgX o => Sys2Proof.Machine.execLdyZpgX o s
  | .ldyAbs w => Sys2Proof.Machine.execLdyAbs w s
  | .ldyAbsX w => Sys2Proof.Machine.execLdyAbsX w s
  | .staZpg o => Sys2Proof.Machine.execStaZpg o s
  | .staZpgX o => Sys2Proof.Machine.execStaZpgX o s
  | .staAbs w => Sys2Proof.Machine.execStaAbs w s
  | .staAbsX w => Sys2Proof.Machine.execStaAbsX w s
  | .staAbsY w => Sys2Proof.Machine.execStaAbsY w s
  | .staXInd o => Sys2Proof.Machine.execStaXInd o s
  | .staIndY o => Sys2Proof.Machine.execStaIndY o s
  | .stxZpg o => Sys2Proof.Machine.execStxZpg o s
  | .stxZpgY o => Sys2Proof.Machine.execStxZpgY o s
  | .stxAbs w => Sys2Proof.Machine.execStxAbs w s
  | .styZpg o => Sys2Proof.Machine.execStyZpg o s
  | .styZpgX o => Sys2Proof.Machine.execStyZpgX o s
  | .styAbs w => Sys2Proof.Machine.execStyAbs w s
  -- Transfers and stack (spec/42_transfer_stack.md)
  | .tax => Sys2Proof.Machine.execTax s
  | .tay => Sys2Proof.Machine.execTay s
  | .txa => Sys2Proof.Machine.execTxa s
  | .tya => Sys2Proof.Machine.execTya s
  | .tsx => Sys2Proof.Machine.execTsx s
  | .txs => Sys2Proof.Machine.execTxs s
  | .pha => Sys2Proof.Machine.execPha s
  | .pla => Sys2Proof.Machine.execPla s
  | .php => Sys2Proof.Machine.execPhp s
  | .plp => Sys2Proof.Machine.execPlp s
  -- Logic, arithmetic, compare (spec/43_logical_arith_compare.md)
  | .andImm o => Sys2Proof.Machine.execAndImm o s
  | .andZpg o => Sys2Proof.Machine.execAndZpg o s
  | .andZpgX o => Sys2Proof.Machine.execAndZpgX o s
  | .andAbs w => Sys2Proof.Machine.execAndAbs w s
  | .andAbsX w => Sys2Proof.Machine.execAndAbsX w s
  | .andAbsY w => Sys2Proof.Machine.execAndAbsY w s
  | .andXInd o => Sys2Proof.Machine.execAndXInd o s
  | .andIndY o => Sys2Proof.Machine.execAndIndY o s
  | .oraImm o => Sys2Proof.Machine.execOraImm o s
  | .oraZpg o => Sys2Proof.Machine.execOraZpg o s
  | .oraZpgX o => Sys2Proof.Machine.execOraZpgX o s
  | .oraAbs w => Sys2Proof.Machine.execOraAbs w s
  | .oraAbsX w => Sys2Proof.Machine.execOraAbsX w s
  | .oraAbsY w => Sys2Proof.Machine.execOraAbsY w s
  | .oraXInd o => Sys2Proof.Machine.execOraXInd o s
  | .oraIndY o => Sys2Proof.Machine.execOraIndY o s
  | .eorImm o => Sys2Proof.Machine.execEorImm o s
  | .eorZpg o => Sys2Proof.Machine.execEorZpg o s
  | .eorZpgX o => Sys2Proof.Machine.execEorZpgX o s
  | .eorAbs w => Sys2Proof.Machine.execEorAbs w s
  | .eorAbsX w => Sys2Proof.Machine.execEorAbsX w s
  | .eorAbsY w => Sys2Proof.Machine.execEorAbsY w s
  | .eorXInd o => Sys2Proof.Machine.execEorXInd o s
  | .eorIndY o => Sys2Proof.Machine.execEorIndY o s
  | .bitZpg o => Sys2Proof.Machine.execBitZpg o s
  | .bitAbs w => Sys2Proof.Machine.execBitAbs w s
  | .adcImm o => Sys2Proof.Machine.execAdcImm o s
  | .adcZpg o => Sys2Proof.Machine.execAdcZpg o s
  | .adcZpgX o => Sys2Proof.Machine.execAdcZpgX o s
  | .adcAbs w => Sys2Proof.Machine.execAdcAbs w s
  | .adcAbsX w => Sys2Proof.Machine.execAdcAbsX w s
  | .adcAbsY w => Sys2Proof.Machine.execAdcAbsY w s
  | .adcXInd o => Sys2Proof.Machine.execAdcXInd o s
  | .adcIndY o => Sys2Proof.Machine.execAdcIndY o s
  | .sbcImm o => Sys2Proof.Machine.execSbcImm o s
  | .sbcZpg o => Sys2Proof.Machine.execSbcZpg o s
  | .sbcZpgX o => Sys2Proof.Machine.execSbcZpgX o s
  | .sbcAbs w => Sys2Proof.Machine.execSbcAbs w s
  | .sbcAbsX w => Sys2Proof.Machine.execSbcAbsX w s
  | .sbcAbsY w => Sys2Proof.Machine.execSbcAbsY w s
  | .sbcXInd o => Sys2Proof.Machine.execSbcXInd o s
  | .sbcIndY o => Sys2Proof.Machine.execSbcIndY o s
  | .cmpImm o => Sys2Proof.Machine.execCmpImm o s
  | .cmpZpg o => Sys2Proof.Machine.execCmpZpg o s
  | .cmpZpgX o => Sys2Proof.Machine.execCmpZpgX o s
  | .cmpAbs w => Sys2Proof.Machine.execCmpAbs w s
  | .cmpAbsX w => Sys2Proof.Machine.execCmpAbsX w s
  | .cmpAbsY w => Sys2Proof.Machine.execCmpAbsY w s
  | .cmpXInd o => Sys2Proof.Machine.execCmpXInd o s
  | .cmpIndY o => Sys2Proof.Machine.execCmpIndY o s
  | .cpxImm o => Sys2Proof.Machine.execCpxImm o s
  | .cpxZpg o => Sys2Proof.Machine.execCpxZpg o s
  | .cpxAbs w => Sys2Proof.Machine.execCpxAbs w s
  | .cpyImm o => Sys2Proof.Machine.execCpyImm o s
  | .cpyZpg o => Sys2Proof.Machine.execCpyZpg o s
  | .cpyAbs w => Sys2Proof.Machine.execCpyAbs w s
  -- Increment, decrement, shift, rotate (spec/44_incdec_shift.md)
  | .incZpg o => Sys2Proof.Machine.execIncZpg o s
  | .incZpgX o => Sys2Proof.Machine.execIncZpgX o s
  | .incAbs w => Sys2Proof.Machine.execIncAbs w s
  | .incAbsX w => Sys2Proof.Machine.execIncAbsX w s
  | .decZpg o => Sys2Proof.Machine.execDecZpg o s
  | .decZpgX o => Sys2Proof.Machine.execDecZpgX o s
  | .decAbs w => Sys2Proof.Machine.execDecAbs w s
  | .decAbsX w => Sys2Proof.Machine.execDecAbsX w s
  | .inx => Sys2Proof.Machine.execInx s
  | .iny => Sys2Proof.Machine.execIny s
  | .dex => Sys2Proof.Machine.execDex s
  | .dey => Sys2Proof.Machine.execDey s
  | .aslAcc => Sys2Proof.Machine.execAslAcc s
  | .aslZpg o => Sys2Proof.Machine.execAslZpg o s
  | .aslZpgX o => Sys2Proof.Machine.execAslZpgX o s
  | .aslAbs w => Sys2Proof.Machine.execAslAbs w s
  | .aslAbsX w => Sys2Proof.Machine.execAslAbsX w s
  | .lsrAcc => Sys2Proof.Machine.execLsrAcc s
  | .lsrZpg o => Sys2Proof.Machine.execLsrZpg o s
  | .lsrZpgX o => Sys2Proof.Machine.execLsrZpgX o s
  | .lsrAbs w => Sys2Proof.Machine.execLsrAbs w s
  | .lsrAbsX w => Sys2Proof.Machine.execLsrAbsX w s
  | .rolAcc => Sys2Proof.Machine.execRolAcc s
  | .rolZpg o => Sys2Proof.Machine.execRolZpg o s
  | .rolZpgX o => Sys2Proof.Machine.execRolZpgX o s
  | .rolAbs w => Sys2Proof.Machine.execRolAbs w s
  | .rolAbsX w => Sys2Proof.Machine.execRolAbsX w s
  | .rorAcc => Sys2Proof.Machine.execRorAcc s
  | .rorZpg o => Sys2Proof.Machine.execRorZpg o s
  | .rorZpgX o => Sys2Proof.Machine.execRorZpgX o s
  | .rorAbs w => Sys2Proof.Machine.execRorAbs w s
  | .rorAbsX w => Sys2Proof.Machine.execRorAbsX w s
  -- Jumps, subroutines, return, branches (spec/45_control.md)
  | .jmpAbs w => Sys2Proof.Machine.execJmpAbs w s
  | .jmpInd w => Sys2Proof.Machine.execJmpInd w s
  | .jsr w => Sys2Proof.Machine.execJsr w s
  | .rts => Sys2Proof.Machine.execRts s
  | .rti => Sys2Proof.Machine.execRti s
  | .bcc o => Sys2Proof.Machine.execBcc o s
  | .bcs o => Sys2Proof.Machine.execBcs o s
  | .beq o => Sys2Proof.Machine.execBeq o s
  | .bmi o => Sys2Proof.Machine.execBmi o s
  | .bne o => Sys2Proof.Machine.execBne o s
  | .bpl o => Sys2Proof.Machine.execBpl o s
  | .bvc o => Sys2Proof.Machine.execBvc o s
  | .bvs o => Sys2Proof.Machine.execBvs o s
  -- Flags, BRK, NOP (spec/46_flags_misc.md)
  | .clc => Sys2Proof.Machine.execClc s
  | .sec => Sys2Proof.Machine.execSec s
  | .cli => Sys2Proof.Machine.execCli s
  | .sei => Sys2Proof.Machine.execSei s
  | .cld => Sys2Proof.Machine.execCld s
  | .sed => Sys2Proof.Machine.execSed s
  | .clv => Sys2Proof.Machine.execClv s
  | .brk => Sys2Proof.Machine.execBrk s
  | .nop => Sys2Proof.Machine.execNop s
  -- The undefined bytes (spec/60_exceptions.md R330)
  | .undefinedHalt op => Sys2Proof.Machine.execUndefinedHalt op s

end Sys2Proof.Machine
end

