-- ==== Sys2Proof/Machine/Step.lean ====
section
/-! DEFINITION. One call of `step()` (spec/40_step_and_addressing.md R120), the count it returns, and the
placing of an instruction where a step fetches it. -/

namespace Sys2Proof.Machine

/-- `step()` (R120): nothing when Halted (R331); else one interrupt service (R317, R324); else the
instruction at `PC` is fetched and executed. -/
def step (s : State) : Host.Outcome State Fault Refusal :=
  match s.run with
  | .halted => .next s
  | .running =>
    match takenLine s with
    | some k => serviceInterrupt k false s
    | none => if s.pcSet then exec (nextInstr s) (commitFetch (nextInstr s).mode s) else .fault .pcUnset

/-- What `step()` returns: the cycles the step charged (R40, R144). -/
def stepCycles (s : State) : Option Nat :=
  match step s with
  | .next t => some (t.cycles - s.cycles)
  | .fault _ => none
  | .refused _ => none

/-- The state with an instruction stored where the next step fetches it, and that step free to fetch
it (log 7). -/
def State.withFetchWord (s : State) (nbits w : Nat) : State := readyToFetch (tableBytes nbits w) s

end Sys2Proof.Machine
end

