-- ==== Sys2Proof/Machine/HostCalls.lean ====
section
/-! DEFINITION. What the host and the devices do between two steps (spec/70_reset_and_hazards.md R350 to
R358, spec/60_exceptions.md R311, R315, R332): each a function on the state (log 15). -/

namespace Sys2Proof.Machine

/-- `power_cycle()` (R350, R44): the registers, the run state and the counter; neither the latch nor
the bus (D5). -/
def powerCycle (s : State) : State :=
  { s with
    pc := 0, pcSet := false, sp := 0xFD, a := 0, x := 0, y := 0, p := 0x34
    run := .running, cycles := 0 }

/-- `reset()` (R352, R45): `S <- S - 3`, `P.I <- 1`, Running; nothing else (D16). -/
def hostReset (s : State) : State :=
  { s with sp := s.sp - 3, p := putFlag .I true s.p, run := .running }

/-- `Request(k)` between two steps (R311, R314). -/
def request (k : Line) (s : State) : State := { s with pending := s.pending.request k }

/-- A device withdraws a line it asserted: `Service(k)` between two steps (R315, D24). -/
def withdraw (k : Line) (s : State) : State := clearLine k s

/-- `state()` (R332). -/
def runStateOf (s : State) : RunState := s.run

/-- Another subsystem, or the loader, leaves a byte in the memory cell at an address between two steps,
writable by the core or not (R82, R351). An address of the devices has no cell. -/
def hostWrite (a : Word) (v : Byte) (s : State) : State :=
  { s with
    mem := match placeOf s a with
      | .cell n _ => s.mem.put n.toNat v
      | .device => s.mem }

/-- The devices run between two steps (R82): whatever state they leave. -/
def runDevices (d : List Nat) (s : State) : State := { s with devices := d }

/-- The operations of R356 that change something, and those of the latch and the bus's other users. -/
inductive HostOp where
  | powerCycle
  | reset
  | request (k : Line)
  | withdraw (k : Line)
  | write (a : Word) (v : Byte)
  | devices (d : List Nat)
deriving DecidableEq, Repr

/-- What a host operation does. -/
def HostOp.apply : HostOp → State → State
  | .powerCycle, s => Machine.powerCycle s
  | .reset, s => hostReset s
  | .request k, s => Machine.request k s
  | .withdraw k, s => Machine.withdraw k s
  | .write a v, s => hostWrite a v s
  | .devices d, s => runDevices d s

end Sys2Proof.Machine
end

