-- ==== Sys2Proof/Machine/Trace.lean ====
section
/-! DEFINITION. The two outputs of the core beside the cycle count: the trace line of a step that completes
an instruction (spec/60_exceptions.md R338, spec/92_eei_decisions.md D27) and the halt warning (R330,
D26), each a function of the state before the step. Nothing here changes a state. Operand text by
spec/30_encoding.md R103 (log 17). -/

namespace Sys2Proof.Machine

/-- The fields of a trace line (R338), taken before the instruction executes (D27). -/
structure TraceLine where
  pc : Word
  bytes : List Byte
  mnemonic : Mnemonic
  form : Form
  a : Byte
  x : Byte
  y : Byte
  p : Byte
  sp : Byte
  cyc : Nat
deriving DecidableEq, Repr

/-- The line of the next step: none for a Halted step, an interrupt service, an unset `PC` or an
undefined byte, which completes no instruction (R338, D27; log 17). -/
def traceOf (s : State) : Option TraceLine :=
  let i := nextInstr s
  if s.run == .running && (takenLine s).isNone && s.pcSet && i.mnemonic != .unimplemented then
    some { pc := s.pc, bytes := encode i, mnemonic := i.mnemonic, form := i.form,
           a := s.a, x := s.x, y := s.y, p := s.p, sp := s.sp, cyc := s.cycles }
  else none

/-- The warning a halting step emits to the diagnostic channel (R330, D26): the address and the undefined
byte (log 18). -/
def haltWarningOf (s : State) : Option (Word × Byte) :=
  let i := nextInstr s
  if s.run == .running && (takenLine s).isNone && s.pcSet && i.mnemonic == .unimplemented then
    some (s.pc, i.opcode)
  else none

/-- The mnemonic as text (R90). -/
def mnemonicText : Mnemonic → String
  | .lda => "LDA"
  | .ldx => "LDX"
  | .ldy => "LDY"
  | .sta => "STA"
  | .stx => "STX"
  | .sty => "STY"
  | .tax => "TAX"
  | .tay => "TAY"
  | .txa => "TXA"
  | .tya => "TYA"
  | .tsx => "TSX"
  | .txs => "TXS"
  | .pha => "PHA"
  | .pla => "PLA"
  | .php => "PHP"
  | .plp => "PLP"
  | .and => "AND"
  | .ora => "ORA"
  | .eor => "EOR"
  | .bit => "BIT"
  | .adc => "ADC"
  | .sbc => "SBC"
  | .cmp => "CMP"
  | .cpx => "CPX"
  | .cpy => "CPY"
  | .inc => "INC"
  | .dec => "DEC"
  | .inx => "INX"
  | .iny => "INY"
  | .dex => "DEX"
  | .dey => "DEY"
  | .asl => "ASL"
  | .lsr => "LSR"
  | .rol => "ROL"
  | .ror => "ROR"
  | .jmp => "JMP"
  | .jsr => "JSR"
  | .rts => "RTS"
  | .rti => "RTI"
  | .bcc => "BCC"
  | .bcs => "BCS"
  | .beq => "BEQ"
  | .bmi => "BMI"
  | .bne => "BNE"
  | .bpl => "BPL"
  | .bvc => "BVC"
  | .bvs => "BVS"
  | .clc => "CLC"
  | .sec => "SEC"
  | .cli => "CLI"
  | .sei => "SEI"
  | .cld => "CLD"
  | .sed => "SED"
  | .clv => "CLV"
  | .brk => "BRK"
  | .nop => "NOP"
  | .unimplemented => "???"

/-- One hexadecimal digit, capital. -/
def hexDigit (n : Nat) : Char := "0123456789ABCDEF".toList.getD n '?'

/-- A byte as two hexadecimal digits. -/
def hexByte (b : Byte) : String := String.ofList [hexDigit (b.toNat / 16), hexDigit (b.toNat % 16)]

/-- A word as four hexadecimal digits. -/
def hexWord (w : Word) : String := hexByte (hi8 w) ++ hexByte (lo8 w)

/-- The operand text of R103; a branch shows its destination, from the address after it. -/
def operandText (after : Word) : Form → String
  | .abs w => "$" ++ hexWord w
  | .absX w => "$" ++ hexWord w ++ ",X"
  | .absY w => "$" ++ hexWord w ++ ",Y"
  | .ind w => "($" ++ hexWord w ++ ")"
  | .xInd o => "($" ++ hexByte o ++ ",X)"
  | .indY o => "($" ++ hexByte o ++ "),Y"
  | .zpg o => "$" ++ hexByte o
  | .zpgX o => "$" ++ hexByte o ++ ",X"
  | .zpgY o => "$" ++ hexByte o ++ ",Y"
  | .rel o => "$" ++ hexWord (after + sext o)
  | .imm o => "#$" ++ hexByte o
  | .acc => "A"
  | .impl => ""
  | .invalid _ => ""

/-- A text filled with spaces to a width. -/
def padTo (n : Nat) (t : String) : String := t ++ String.ofList (List.replicate (n - t.length) ' ')

/-- The line as text: `PC  <opbytes>  MNEM <operand-disasm>  A:aa X:xx Y:yy P:pp SP:sp CYC:nnn` (R338).
The columns (`<opbytes>` 8 wide, the registers from column 48) are log 17's, PRESUMED. DESIGN CHOICE: the
count after `CYC:` is decimal without padding, so the line has R338's 80 columns only for a count of two
digits (log 17). -/
def TraceLine.text (l : TraceLine) : String :=
  let after := l.pc + BitVec.ofNat 16 l.form.mode.length
  let bytes := String.intercalate " " (l.bytes.map hexByte)
  padTo 48 (hexWord l.pc ++ "  " ++ padTo 8 bytes ++ "  " ++ mnemonicText l.mnemonic ++ " " ++
    operandText after l.form) ++
  "A:" ++ hexByte l.a ++ " X:" ++ hexByte l.x ++ " Y:" ++ hexByte l.y ++ " P:" ++ hexByte l.p ++
  " SP:" ++ hexByte l.sp ++ " CYC:" ++ toString l.cyc

end Sys2Proof.Machine
end

