-- ==== Sys2Proof/Safety.lean ====
section
/-! DEFINITION. The terms that claims use: safe and ended runs, the invariant, reachable states, and short
names for what an instruction reads, costs, writes and calls. -/

namespace Sys2Proof.Safety

open Sys2Proof.Machine

/-! ### Runs -/

/-- A run of `n` steps that meets no fault and no refusal: a faulted state is no good end
(spec/60_exceptions.md R334). -/
def SafeRun (n : Nat) (s : State) : Prop := ∃ t, Host.Core.run Sys2Proof.core n s = .next t

/-- A run that ends in Halted within `n` steps (spec/70_reset_and_hazards.md R365). -/
def EndsHalted (n : Nat) (s t : State) : Prop :=
  Host.Core.run Sys2Proof.core n s = .next t ∧ t.run = .halted

/-- The invariant of the machine: the memory is in its canonical form, and `P.U` is 1
(spec/10_state.md R34). -/
def Invariant (s : State) : Prop := s.mem.wf ∧ getFlag .U s.p = true

/-- The states reachable from power-up on any bus and under any parameters: steps, and host operations
between them (spec/10_state.md R34, spec/70_reset_and_hazards.md R356). -/
inductive Reachable : State → Prop where
  | powerUp {s : State} : s.mem.wf → Reachable (powerCycle s)
  | step {s t : State} : Reachable s → step s = .next t → Reachable t
  | host {s : State} (h : HostOp) : Reachable s → Reachable (h.apply s)

/-- The step executes an instruction: it runs, services no line, and `PC` holds a value
(spec/40_step_and_addressing.md R120). -/
def Executes (s : State) : Prop := s.run = .running ∧ takenLine s = none ∧ s.pcSet = true

/-! ### Operands, cycles and flags -/

/-- The target an instruction's form resolves to. -/
def targetOf (i : Instr) (s : State) : Target := (resolve i.form s).target

/-- The state after an instruction's pointer reads. -/
def afterResolve (i : Instr) (s : State) : State := (resolve i.form s).st

/-- The operand byte an instruction reads (spec/40_step_and_addressing.md R141). -/
def operandOf (i : Instr) (s : State) : Byte := operandByte (targetOf i s) (afterResolve i s)

/-- The state after an instruction has read its operand byte. -/
def afterOperandOf (i : Instr) (s : State) : State := afterOperand (targetOf i s) (afterResolve i s)

/-- The base count and the page-cross cycle of an instruction that reads an operand
(spec/40_step_and_addressing.md R139, R143). -/
def readCycles (i : Instr) (s : State) : Nat :=
  baseCycles s.params i.opcode + crossCycles s.params i.opcode (resolve i.form s).crossed

/-- The base count of an instruction. -/
def baseOf (i : Instr) (s : State) : Nat := baseCycles s.params i.opcode

/-- A status byte `q` that differs from `p` as `SetZN(v)` says, and in no other bit
(spec/40_step_and_addressing.md R140). -/
def ZNSet (v p q : Byte) : Prop :=
  ∀ f, getFlag f q = if f = .Z then v == 0 else if f = .N then v.getLsbD 7 else getFlag f p

/-- A status byte `q` that differs from `p` in the carry `c` and as `SetZN(v)` says. -/
def CZNSet (c : Bool) (v p q : Byte) : Prop :=
  ∀ f, getFlag f q = if f = .C then c else if f = .Z then v == 0 else if f = .N then v.getLsbD 7
    else getFlag f p

/-- A status byte `q` that differs from `p` in one flag. -/
def FlagSet (g : Flag) (v : Bool) (p q : Byte) : Prop :=
  ∀ f, getFlag f q = if f = g then v else getFlag f p

/-- The opcodes that select a mnemonic, with their modes: these and no others. -/
def HasForms (m : Mnemonic) (rows : List (Byte × Mode)) : Prop :=
  (∀ i : Instr, i.mnemonic = m → (i.opcode, i.mode) ∈ rows) ∧
  ∀ e ∈ rows, ∀ b1 b2 : Byte,
    (decodeWindow e.1 b1 b2).mnemonic = m ∧ (decodeWindow e.1 b1 b2).mode = e.2

/-- ADC of `a`, `m` and the carry `c` (spec/43_logical_arith_compare.md R205): the byte out, and the
status byte `q` after a status byte `p`. SBC is this with `m` complemented (R206). -/
def AddSets (a m : Byte) (c : Bool) (p out q : Byte) : Prop :=
  let sum := a.toNat + m.toNat + c.toNat
  out = BitVec.ofNat 8 sum ∧
  ∀ f, getFlag f q = match f with
    | .C => decide (sum > 0xFF)
    | .Z => decide (sum % 256 = 0)
    | .V => ((~~~(a ^^^ m)) &&& (a ^^^ out) &&& 0x80) != 0
    | .N => sum.testBit 7
    | .I | .D | .B | .U => getFlag f p

/-- A branch instruction with opcode `op` that branches when flag `f` has the value `want`
(spec/45_control.md R270 to R278): `PC` is the address after it, one less that of its offset byte. -/
def BranchesWhen (mk : Byte → Instr) (op : Byte) (f : Flag) (want : Bool) : Prop :=
  ∀ (o : Byte) (s : State),
    (getFlag f s.p = want →
      exec (mk o) s = .next { afterRead (s.pc - 1) s with
        pc := s.pc + sext o
        pcSet := true
        cycles := s.cycles + baseCycles s.params op +
          (if page s.pc = page (s.pc + sext o) then 1 else 3) }) ∧
    (getFlag f s.p ≠ want →
      exec (mk o) s = .next { s with cycles := s.cycles + baseCycles s.params op })

/-- A form with `n` operand bytes whose address needs no memory read
(spec/40_step_and_addressing.md R124). -/
def ResolvesTo (f : Form) (n : Nat) (s : State) (ea : Word) (crossed : Bool) : Prop :=
  f.mode.length = n + 1 ∧ (commitFetch f.mode s).pc = s.pc + BitVec.ofNat 16 (n + 1) ∧
  (resolve f s).target = .addr ea ∧ (resolve f s).crossed = crossed ∧ (resolve f s).st = s

/-! ### Memory -/

/-- The address of the high byte of a pointer: the next one in the page
(spec/20_memory.md R64). -/
def pointerHigh (a : Word) : Word := (a &&& 0xFF00) ||| ((a + 1) &&& 0xFF)

/-- The word the bus answers at a pointer, low byte first, the high byte from the same page. -/
def pointerWord (a : Word) (s : State) : Word :=
  concat (readByte (pointerHigh a) (afterRead a s)) (readByte a s)

/-- The state after the two reads of a pointer. -/
def afterPointer (a : Word) (s : State) : State := afterRead (pointerHigh a) (afterRead a s)

/-- The three pushes of the service path: `PC` high, `PC` low, a status byte
(spec/60_exceptions.md R320); `S` is not moved here. -/
def framed (status : Byte) (s : State) : State :=
  memWrite (stackAddr (s.sp - 2)) status
    (memWrite (stackAddr (s.sp - 1)) (lo8 s.pc) (memWrite (stackAddr s.sp) (hi8 s.pc) s))

/-- The state after `P.I <- 1`, 7 cycles, the vector's two reads and the clearing of the line
(spec/60_exceptions.md R320), from the state `u` after the pushes and with stack pointer `sp`. -/
def vectored (k : Line) (v : Word) (sp : Byte) (u : State) : State :=
  let w := afterRead (v + 1) (afterRead v u)
  { w with
    sp := sp
    p := putFlag .I true u.p
    cycles := u.cycles + 7
    pc := concat (readByte (v + 1) (afterRead v u)) (readByte v u)
    pcSet := true
    pending := w.pending.service k }

/-- Every byte that is known is kept, and none becomes known or unknown. -/
def SameMemory (s t : State) : Prop := ∀ b, peek t b = peek s b

/-- The same, for every address but the stored ones and their mirrors: those that lead to a memory cell
which a stored address leads to (spec/20_memory.md R62). -/
def SameMemoryBut (stored : List Word) (s t : State) : Prop :=
  ∀ b, (∀ a ∈ stored, sharesCell s b a = false) → peek t b = peek s b

/-- The 256 slots of the stack page (spec/20_memory.md R72) are 256 writable memory cells, a block of
the bus's memory: no devices, no ROM, no mirror within the page. -/
def StackIsMemory (s : State) : Prop :=
  ∃ base : Word, ∀ v : Byte, placeOf s (stackAddr v) = .cell (base + zext v) true

/-! ### The bus calls of a step (spec/40_step_and_addressing.md R145) -/

/-- A bus call without the byte it carries: R145's `R(a)` and `W(a)`. -/
inductive Call where
  | R (a : Word)
  | W (a : Word)
deriving DecidableEq, Repr

/-- A recorded call without its byte. -/
def callOf : BusCall → Call
  | .read a => .R a
  | .write a _ => .W a

/-- The calls recorded in a state, newest first. -/
def callsIn (s : State) : List Call := s.busLog.map callOf

/-- The pointer reads of a form, in order: none but in modes `ind`, `Xind` and `indY`. -/
def pointerCalls (f : Form) (s : State) : List Call :=
  match f with
  | .ind w => [.R w, .R (concat (hi8 w) (lo8 w + 1))]
  | .xInd o => [.R (zext (o + s.x)), .R (zext (o + s.x + 1))]
  | .indY o => [.R (zext o), .R (zext (o + 1))]
  | .abs _ | .absX _ | .absY _ | .zpg _ | .zpgX _ | .zpgY _ | .rel _ | .imm _ | .acc | .impl
  | .invalid _ => []

/-- The read of an operand through a target: none for the accumulator. -/
def operandCalls : Target → List Call
  | .addr ea | .operand ea _ => [.R ea]
  | .acc | .none => []

/-- The write of a result through a target: none for the accumulator. -/
def resultCalls : Target → List Call
  | .addr ea => [.W ea]
  | .operand _ _ | .acc | .none => []

/-- The opcode's fetch at `o` and the operand fetches of a mode's resolution. -/
def fetchCalls (m : Mode) (o : Word) : List Call :=
  match m with
  | .impl | .acc | .imm | .rel | .invalid => [.R o]
  | .zpg | .zpgX | .zpgY | .xInd | .indY => [.R o, .R (o + 1)]
  | .abs | .absX | .absY | .ind => [.R o, .R (o + 1), .R (o + 2)]

/-- Whether a branch mnemonic takes its branch (spec/45_control.md R271 to R278). -/
def branchTaken (m : Mnemonic) (p : Byte) : Bool :=
  match m with
  | .bcc => !getFlag .C p
  | .bcs => getFlag .C p
  | .beq => getFlag .Z p
  | .bmi => getFlag .N p
  | .bne => !getFlag .Z p
  | .bpl => !getFlag .N p
  | .bvc => !getFlag .V p
  | .bvs => getFlag .V p
  | _ => false

/-- The mnemonics that read one operand byte and write none. -/
def readers : List Mnemonic :=
  [.lda, .ldx, .ldy, .and, .ora, .eor, .bit, .adc, .sbc, .cmp, .cpx, .cpy]

/-- The store mnemonics. -/
def storers : List Mnemonic := [.sta, .stx, .sty]

/-- The read-modify-write mnemonics. -/
def modifiers : List Mnemonic := [.inc, .dec, .asl, .lsr, .rol, .ror]

/-- The branch mnemonics. -/
def branches : List Mnemonic := [.bcc, .bcs, .beq, .bmi, .bne, .bpl, .bvc, .bvs]

/-- The mnemonics that push. -/
def pushers : List Mnemonic := [.pha, .php, .jsr, .brk]

/-- The mnemonics whose rules write each flag of `P` but B and U; PLP and RTI write all of `P`
(spec/10_state.md R29 to R36). -/
def flagWriters : Flag → List Mnemonic
  | .C => [.adc, .sbc, .cmp, .cpx, .cpy, .asl, .lsr, .rol, .ror, .clc, .sec, .plp, .rti]
  | .Z | .N => [.lda, .ldx, .ldy, .tax, .tay, .txa, .tya, .tsx, .pla, .and, .ora, .eor, .inc, .dec,
      .inx, .iny, .dex, .dey, .asl, .lsr, .rol, .ror, .cmp, .cpx, .cpy, .adc, .sbc, .bit, .plp, .rti]
  | .I => [.cli, .sei, .brk, .plp, .rti]
  | .D => [.cld, .sed, .plp, .rti]
  | .V => [.adc, .sbc, .bit, .clv, .plp, .rti]
  | .B | .U => [.plp, .rti]

/-- The calls of an instruction after its fetch: pointer reads, then execution calls, in order. -/
def execCalls (i : Instr) (s : State) : List Call :=
  let m := i.mnemonic
  let ptr := pointerCalls i.form s
  let t := targetOf i s
  if m ∈ readers then ptr ++ operandCalls t
  else if m ∈ storers then ptr ++ resultCalls t
  else if m ∈ modifiers then ptr ++ operandCalls t ++ resultCalls t
  else if m ∈ branches then (if branchTaken m s.p then [.R (s.pc - 1)] else [])
  else match m with
    | .jmp => ptr
    | .jsr => [.W (stackAddr s.sp), .W (stackAddr (s.sp - 1))]
    | .pha | .php => [.W (stackAddr s.sp)]
    | .pla | .plp => [.R (stackAddr (s.sp + 1))]
    | .rts => [.R (stackAddr (s.sp + 1)), .R (stackAddr (s.sp + 2))]
    | .rti => [.R (stackAddr (s.sp + 1)), .R (stackAddr (s.sp + 2)), .R (stackAddr (s.sp + 3))]
    | .brk => [.W (stackAddr s.sp), .W (stackAddr (s.sp - 1)), .W (stackAddr (s.sp - 2)),
        .R 0xFFFE, .R 0xFFFF]
    | _ => []

/-- The calls of an interrupt service. -/
def serviceCalls (k : Line) (s : State) : List Call :=
  let frame : List Call :=
    [.W (stackAddr s.sp), .W (stackAddr (s.sp - 1)), .W (stackAddr (s.sp - 2))]
  match k with
  | .nmi => frame ++ [.R 0xFFFA, .R 0xFFFB]
  | .irq => frame ++ [.R 0xFFFE, .R 0xFFFF]
  | .reset => if s.params.resetOverrideC000 then [] else [.R 0xFFFC, .R 0xFFFD]

/-- The calls of one step, in order. -/
def stepCalls (s : State) : List Call :=
  match s.run with
  | .halted => []
  | .running =>
    match takenLine s with
    | some k => serviceCalls k s
    | none =>
      let i := nextInstr s
      fetchCalls i.mode s.pc ++ execCalls i (commitFetch i.mode s)

end Sys2Proof.Safety
end

