-- ==== Sys2Proof/Certificates/Slice0/Obligations.lean ====
section
/-! DEFINITION. The statements about the machine, for the provers. Each docstring names the rule of spec/
it formalises. Where a statement is about an address, it says which instruction's form names it; the
devices' bus and an undescribed byte are free (log 1, log 2), so that each statement holds for every
bus and for every value it may answer. A `HasForms` clause states the Encoding line of the rule; the
spec takes the byte values of those lines from general knowledge (30_encoding.md, The opcode record and
the opcode map; log 11). -/

open Sys2Proof Sys2Proof.Machine Sys2Proof.Safety

/-! ### Encoding -/

/-- Decoding the encoding of a well-formed instruction gives it back, with the bytes after it
(30_encoding.md, Formats and lengths; table 3). -/
def Obligations.DecodeOfEncodeIsTheInstruction : Prop :=
  ∀ (i : Instr) (rest : List Byte), i.wf = true → decode (encode i ++ rest) = .ok i rest

/-- Every list of bytes that decodes is the encoding of the well-formed instruction it decodes to,
whose length its mode fixes (30_encoding.md, Formats and lengths). -/
def Obligations.EncodeOfDecodeIsTheBytes : Prop :=
  ∀ (bs rest : List Byte) (i : Instr), decode bs = .ok i rest →
    i.wf = true ∧ encode i ++ rest = bs ∧ (encode i).length = i.mode.length

/-- The undefined bytes are 105 distinct ones, and are exactly those that decode to the halting row
(30_encoding.md, Undefined, reserved and hint encodings; the map is the spec's own, log 11). -/
def Obligations.UndefinedBytesAreExactly105 : Prop :=
  undefinedOpcodes.length = 105 ∧ undefinedOpcodes.Nodup ∧
  ∀ (op : Byte) (rest : List Byte),
    decode (op :: rest) = .ok (.undefinedHalt op) rest ↔ op ∈ undefinedOpcodes

/-- A few words written out from table 3, one a family. -/
def Obligations.WrittenOutWordsDecode : Prop :=
  decode [0b10111101, 0x34, 0x12] = .ok (.ldaAbsX 0x1234) [] ∧
  decode [0b10010001, 0x10] = .ok (.staIndY 0x10) [] ∧
  decode [0b10011010] = .ok .txs [] ∧
  decode [0b11100001, 0xFE] = .ok (.sbcXInd 0xFE) [] ∧
  decode [0b01101110, 0x00, 0x03] = .ok (.rorAbs 0x0300) [] ∧
  decode [0b01101100, 0xFF, 0x10] = .ok (.jmpInd 0x10FF) [] ∧
  decode [0b11010000, 0xFB] = .ok (.bne 0xFB) [] ∧
  decode [0b00000000] = .ok .brk [] ∧
  decode [0b00000010] = .ok (.undefinedHalt 0x02) []

/-- Table 3 flags exactly the 23 read instructions of modes absX, absY and indY (30_encoding.md, The
opcode record; the set is the spec's own from general knowledge, log 11). -/
def Obligations.PageCrossFlagIsOnIndexedReads : Prop :=
  pageCrossTable.length = 23 ∧ pageCrossTable.Nodup ∧
  ∀ i : Instr, i.wf = true →
    (pageCrossFlag Params.standard i.opcode = true ↔
      i.mode ∈ [.absX, .absY, .indY] ∧
      i.mnemonic ∈ [.adc, .and, .cmp, .eor, .lda, .ldx, .ldy, .ora, .sbc])

/-! ### Resolution -/

/-- Modes whose address needs no memory read (R125, R126, R127, R131, R132, R133, R136, R137): operand
bytes, target, page crossing; nothing is read. -/
def Obligations.DirectModesResolve : Prop :=
  (∀ i : Instr, (i.mode = .zpgY → i.mnemonic ∈ [.ldx, .stx]) ∧
    (i.mode = .acc → i.mnemonic ∈ [.asl, .lsr, .rol, .ror])) ∧
  ∀ (s : State) (w : Word) (o : Byte),
    ResolvesTo (.abs w) 2 s w false ∧
    ResolvesTo (.absX w) 2 s (w + zext s.x) (page w != page (w + zext s.x)) ∧
    ResolvesTo (.absY w) 2 s (w + zext s.y) (page w != page (w + zext s.y)) ∧
    ResolvesTo (.zpg o) 1 s (zext o) false ∧
    ResolvesTo (.zpgX o) 1 s (zext (o + s.x)) false ∧
    ResolvesTo (.zpgY o) 1 s (zext (o + s.y)) false ∧
    (zext (o + s.x)).toNat = (o.toNat + s.x.toNat) % 256 ∧
    (zext (o + s.y)).toNat = (o.toNat + s.y.toNat) % 256 ∧
    Form.acc.mode.length = 1 ∧ resolve .acc s = ⟨.acc, false, s⟩ ∧
    Form.impl.mode.length = 1 ∧ resolve .impl s = ⟨.none, false, s⟩

/-- Modes that read a pointer (R128, R129, R130), by the page-wrapping word read (R64): low byte first,
high byte at the next address of the same page; a zero-page pointer wraps in the zero page. -/
def Obligations.PointerModesResolve : Prop :=
  (∀ i : Instr, i.mode = .ind → i.mnemonic = .jmp) ∧
  ∀ (s : State) (w : Word) (o : Byte),
    memRead16Zpg w s = (pointerWord w s, afterPointer w s) ∧
    pointerHigh (zext o) = zext (o + 1) ∧
    (Form.ind w).mode.length = 3 ∧
    resolve (.ind w) s = ⟨.addr (pointerWord w s), false, afterPointer w s⟩ ∧
    (Form.xInd o).mode.length = 2 ∧
    (let p := zext (o + s.x)
     resolve (.xInd o) s = ⟨.addr (pointerWord p s), false, afterPointer p s⟩) ∧
    (Form.indY o).mode.length = 2 ∧
    (let base := pointerWord (zext o) s
     let ea := base + zext s.y
     resolve (.indY o) s = ⟨.addr ea, page base != page ea, afterPointer (zext o) s⟩)

/-- Modes imm and rel (R134, R135): the target is the address of the operand byte, which resolution
passes over without a read; in a step, the byte the instruction carries is the one the bus answers
there, and reading the operand is one bus read of that address. -/
def Obligations.PassedOverOperandIsTheBusAnswer : Prop :=
  (∀ i : Instr, i.mode = .rel ↔ i.mnemonic ∈ branches) ∧
  ∀ s : State,
    let i := nextInstr s
    let c := commitFetch i.mode s
    (i.mode = .imm ∨ i.mode = .rel) →
      c.pc = s.pc + 2 ∧ callsIn c = .R s.pc :: callsIn s ∧
      targetOf i c = .operand (s.pc + 1) (readByte (s.pc + 1) c) ∧ afterResolve i c = c ∧
      operandOf i c = readByte (s.pc + 1) c ∧ afterOperandOf i c = afterRead (s.pc + 1) c

/-- What reading an operand leaves alone (20_memory.md, The bus port): everything but the bus's record,
the count of calls, the devices' state and the latch, which only grows; those last two too on a bus
that routes nothing. That a read changes no memory cell, and that only a device asserts lines, is the
model's choice of how a bus is given (log 2, DESIGN CHOICE); the record and the count are its own
(log 8, log 9). -/
def Obligations.OperandReadsChangeOnlyTheBusRecord : Prop :=
  ∀ (i : Instr) (s : State),
    let t := afterOperandOf i s
    t = { s with
      busLog := t.busLog, busCalls := t.busCalls, devices := t.devices, pending := t.pending } ∧
    SameMemory s t ∧ (∀ k, s.pending.has k = true → t.pending.has k = true) ∧
    (s.routes = [] → t.pending = s.pending ∧ t.devices = s.devices)

/-! ### Loads and stores -/

/-- LDA, LDX, LDY (R161, R162, R163). -/
def Obligations.LoadsWriteRegisterAndZN : Prop :=
  HasForms .lda [(0xA9, .imm), (0xA5, .zpg), (0xB5, .zpgX), (0xAD, .abs), (0xBD, .absX),
    (0xB9, .absY), (0xA1, .xInd), (0xB1, .indY)] ∧
  HasForms .ldx [(0xA2, .imm), (0xA6, .zpg), (0xB6, .zpgY), (0xAE, .abs), (0xBE, .absY)] ∧
  HasForms .ldy [(0xA0, .imm), (0xA4, .zpg), (0xB4, .zpgX), (0xAC, .abs), (0xBC, .absX)] ∧
  ∀ (i : Instr) (s : State),
    let m := operandOf i s
    let u := afterOperandOf i s
    (i.mnemonic = .lda → ∃ t, exec i s = .next t ∧ ZNSet m s.p t.p ∧
      t = { u with a := m, p := t.p, cycles := s.cycles + readCycles i s }) ∧
    (i.mnemonic = .ldx → ∃ t, exec i s = .next t ∧ ZNSet m s.p t.p ∧
      t = { u with x := m, p := t.p, cycles := s.cycles + readCycles i s }) ∧
    (i.mnemonic = .ldy → ∃ t, exec i s = .next t ∧ ZNSet m s.p t.p ∧
      t = { u with y := m, p := t.p, cycles := s.cycles + readCycles i s })

/-- STA, STX, STY (R164, R165, R166): one write at the target, no read of it, no flag, no page-cross
cycle. -/
def Obligations.StoresWriteTheTarget : Prop :=
  HasForms .sta [(0x85, .zpg), (0x95, .zpgX), (0x8D, .abs), (0x9D, .absX), (0x99, .absY),
    (0x81, .xInd), (0x91, .indY)] ∧
  HasForms .stx [(0x86, .zpg), (0x96, .zpgY), (0x8E, .abs)] ∧
  HasForms .sty [(0x84, .zpg), (0x94, .zpgX), (0x8C, .abs)] ∧
  ∀ (i : Instr) (s : State),
    let stored (v : Byte) : Prop := ∃ ea, targetOf i s = .addr ea ∧
      exec i s = .next { memWrite ea v (afterResolve i s) with cycles := s.cycles + baseOf i s }
    (i.mnemonic = .sta → stored s.a) ∧ (i.mnemonic = .stx → stored s.x) ∧
    (i.mnemonic = .sty → stored s.y)

/-! ### Transfers and stack -/

/-- TAX, TAY, TXA, TYA, TSX, TXS (R181 to R186). -/
def Obligations.TransfersCopyRegisters : Prop :=
  HasForms .tax [(0xAA, .impl)] ∧ HasForms .tay [(0xA8, .impl)] ∧ HasForms .txa [(0x8A, .impl)] ∧
  HasForms .tya [(0x98, .impl)] ∧ HasForms .tsx [(0xBA, .impl)] ∧ HasForms .txs [(0x9A, .impl)] ∧
  ∀ s : State,
    (∃ t, exec .tax s = .next t ∧ ZNSet s.a s.p t.p ∧
      t = { s with x := s.a, p := t.p, cycles := s.cycles + baseCycles s.params 0xAA }) ∧
    (∃ t, exec .tay s = .next t ∧ ZNSet s.a s.p t.p ∧
      t = { s with y := s.a, p := t.p, cycles := s.cycles + baseCycles s.params 0xA8 }) ∧
    (∃ t, exec .txa s = .next t ∧ ZNSet s.x s.p t.p ∧
      t = { s with a := s.x, p := t.p, cycles := s.cycles + baseCycles s.params 0x8A }) ∧
    (∃ t, exec .tya s = .next t ∧ ZNSet s.y s.p t.p ∧
      t = { s with a := s.y, p := t.p, cycles := s.cycles + baseCycles s.params 0x98 }) ∧
    (∃ t, exec .tsx s = .next t ∧ ZNSet s.sp s.p t.p ∧
      t = { s with x := s.sp, p := t.p, cycles := s.cycles + baseCycles s.params 0xBA }) ∧
    exec .txs s = .next { s with sp := s.x, cycles := s.cycles + baseCycles s.params 0x9A }

/-- PHA, PLA, PHP (R187, R188, R189): the slot is `0x0100 | S` before a push and `0x0100 | (S + 1)` for
a pull; PHP pushes `P` as it is. -/
def Obligations.PushAndPullOfAAndP : Prop :=
  HasForms .pha [(0x48, .impl)] ∧ HasForms .pla [(0x68, .impl)] ∧ HasForms .php [(0x08, .impl)] ∧
  ∀ s : State,
    let top : Word := 0x0100 ||| zext s.sp
    let next : Word := 0x0100 ||| zext (s.sp + 1)
    exec .pha s = .next { memWrite top s.a s with
      sp := s.sp - 1, cycles := s.cycles + baseCycles s.params 0x48 } ∧
    exec .php s = .next { memWrite top s.p s with
      sp := s.sp - 1, cycles := s.cycles + baseCycles s.params 0x08 } ∧
    (∃ t, exec .pla s = .next t ∧ ZNSet (readByte next s) s.p t.p ∧
      t = { afterRead next s with
        a := readByte next s, sp := s.sp + 1, p := t.p
        cycles := s.cycles + baseCycles s.params 0x68 })

/-- PLP and RTI (42_transfer_stack.md, Stack; 45_control.md, Jumps and subroutines): `P` is the pulled
byte with `U` forced to 1; RTI then pulls `PC`, low byte first, and adds nothing. -/
def Obligations.PlpAndRtiRestore : Prop :=
  HasForms .plp [(0x28, .impl)] ∧ HasForms .rti [(0x40, .impl)] ∧
  ∀ s : State,
    let a1 := stackAddr (s.sp + 1)
    let a2 := stackAddr (s.sp + 2)
    let a3 := stackAddr (s.sp + 3)
    let u1 := afterRead a1 s
    let u2 := afterRead a2 u1
    (∃ t, exec .plp s = .next t ∧
      (∀ f, getFlag f t.p = if f = .U then true else getFlag f (readByte a1 s)) ∧
      t = { u1 with p := t.p, sp := s.sp + 1, cycles := s.cycles + baseCycles s.params 0x28 }) ∧
    (∃ t, exec .rti s = .next t ∧
      (∀ f, getFlag f t.p = if f = .U then true else getFlag f (readByte a1 s)) ∧
      t = { afterRead a3 u2 with
        p := t.p, sp := s.sp + 3, pc := concat (readByte a3 u2) (readByte a2 u1), pcSet := true
        cycles := s.cycles + baseCycles s.params 0x40 })

/-- The stack helpers (R75, R76, R77) and the stack page (R72). -/
def Obligations.StackHelpersStayInPageOne : Prop :=
  ∀ (s : State) (v : Byte) (w : Word),
    push v s = { memWrite (0x0100 ||| zext s.sp) v s with sp := s.sp - 1 } ∧
    pull s = (readByte (0x0100 ||| zext (s.sp + 1)) s,
      { afterRead (0x0100 ||| zext (s.sp + 1)) s with sp := s.sp + 1 }) ∧
    push16 w s = push (w.setWidth 8) (push ((w >>> 8).setWidth 8) s) ∧
    0x0100 ≤ (0x0100 ||| zext v : Word).toNat ∧ (0x0100 ||| zext v : Word).toNat ≤ 0x01FF

/-- `Pull16` after `Push16(w)` gives `w` and restores `S`, for every `S`, the wraps too, where the slots
are memory (log 2; 20_memory.md, Stack helpers; 95_test_vectors.md property 4). -/
def Obligations.PullOfPushedWordIsTheWord : Prop :=
  ∀ (s : State) (w : Word), StackIsMemory s →
    (pull16 (push16 w s)).1 = w ∧ (pull16 (push16 w s)).2.sp = s.sp

/-! ### Logic, arithmetic, compare -/

/-- AND, ORA, EOR (R201, R202, R203). -/
def Obligations.LogicalOpsWriteAAndZN : Prop :=
  HasForms .and [(0x29, .imm), (0x25, .zpg), (0x35, .zpgX), (0x2D, .abs), (0x3D, .absX),
    (0x39, .absY), (0x21, .xInd), (0x31, .indY)] ∧
  HasForms .ora [(0x09, .imm), (0x05, .zpg), (0x15, .zpgX), (0x0D, .abs), (0x1D, .absX),
    (0x19, .absY), (0x01, .xInd), (0x11, .indY)] ∧
  HasForms .eor [(0x49, .imm), (0x45, .zpg), (0x55, .zpgX), (0x4D, .abs), (0x5D, .absX),
    (0x59, .absY), (0x41, .xInd), (0x51, .indY)] ∧
  ∀ (i : Instr) (s : State),
    let m := operandOf i s
    let writesA (v : Byte) : Prop := ∃ t, exec i s = .next t ∧ ZNSet v s.p t.p ∧
      t = { afterOperandOf i s with a := v, p := t.p, cycles := s.cycles + readCycles i s }
    (i.mnemonic = .and → writesA (s.a &&& m)) ∧ (i.mnemonic = .ora → writesA (s.a ||| m)) ∧
    (i.mnemonic = .eor → writesA (s.a ^^^ m))

/-- BIT (R204): Z from `A & M`, V and N from bits 6 and 7 of `M`, and nothing else. -/
def Obligations.BitTestsTheOperand : Prop :=
  HasForms .bit [(0x24, .zpg), (0x2C, .abs)] ∧
  ∀ (i : Instr) (s : State), i.mnemonic = .bit →
    let m := operandOf i s
    ∃ t, exec i s = .next t ∧
      (∀ f, getFlag f t.p = if f = .Z then s.a &&& m == 0 else if f = .V then m.getLsbD 6
        else if f = .N then m.getLsbD 7 else getFlag f s.p) ∧
      t = { afterOperandOf i s with p := t.p, cycles := s.cycles + readCycles i s }

/-- ADC and SBC (R205, R206): SBC is ADC with the operand complemented, carry not inverted; `D` plays
no part. -/
def Obligations.AdcAndSbcAddWithCarry : Prop :=
  HasForms .adc [(0x69, .imm), (0x65, .zpg), (0x75, .zpgX), (0x6D, .abs), (0x7D, .absX),
    (0x79, .absY), (0x61, .xInd), (0x71, .indY)] ∧
  HasForms .sbc [(0xE9, .imm), (0xE5, .zpg), (0xF5, .zpgX), (0xED, .abs), (0xFD, .absX),
    (0xF9, .absY), (0xE1, .xInd), (0xF1, .indY)] ∧
  ∀ (i : Instr) (s : State),
    let m := operandOf i s
    let adds (n : Byte) : Prop := ∃ t, exec i s = .next t ∧
      AddSets s.a n (getFlag .C s.p) s.p t.a t.p ∧
      t = { afterOperandOf i s with a := t.a, p := t.p, cycles := s.cycles + readCycles i s }
    (i.mnemonic = .adc → adds m) ∧ (i.mnemonic = .sbc → adds (m ^^^ 0xFF))

/-- The arithmetic read as integers (43_logical_arith_compare.md, Arithmetic laws, the spec's own
inference R210): results mod 256, carry as unsigned overflow, V as signed overflow, SBC's carry as
"no borrow", a compare's carry as unsigned order. -/
def Obligations.ArithmeticReadAsIntegers : Prop :=
  ∀ a m p : Byte,
    let c : Int := (getFlag .C p).toNat
    let add : Int := a.toNat + m.toNat + c
    let sadd : Int := a.toInt + m.toInt + c
    let sub : Int := a.toNat - m.toNat - (1 - c)
    let ssub : Int := a.toInt - m.toInt - (1 - c)
    ((adcOut a m p).toNat : Int) = add % 256 ∧
    (getFlag .C (adcFlags a m p) = true ↔ add > 255) ∧
    (getFlag .V (adcFlags a m p) = true ↔ sadd < -128 ∨ sadd > 127) ∧
    ((sbcOut a m p).toNat : Int) = sub % 256 ∧
    (getFlag .C (sbcFlags a m p) = true ↔ sub ≥ 0) ∧
    (getFlag .V (sbcFlags a m p) = true ↔ ssub < -128 ∨ ssub > 127) ∧
    (getFlag .C (cmpFlags a m p) = true ↔ a.toNat ≥ m.toNat)

/-- CMP, CPX, CPY (R207, R208, R209): C is unsigned `reg >= M`, Z and N of the difference mod 256; no
register is written. -/
def Obligations.ComparesSetCZN : Prop :=
  HasForms .cmp [(0xC9, .imm), (0xC5, .zpg), (0xD5, .zpgX), (0xCD, .abs), (0xDD, .absX),
    (0xD9, .absY), (0xC1, .xInd), (0xD1, .indY)] ∧
  HasForms .cpx [(0xE0, .imm), (0xE4, .zpg), (0xEC, .abs)] ∧
  HasForms .cpy [(0xC0, .imm), (0xC4, .zpg), (0xCC, .abs)] ∧
  ∀ (i : Instr) (s : State),
    let m := operandOf i s
    let compares (r : Byte) : Prop := ∃ t, exec i s = .next t ∧
      CZNSet (decide (r.toNat ≥ m.toNat)) (r - m) s.p t.p ∧
      t = { afterOperandOf i s with p := t.p, cycles := s.cycles + readCycles i s }
    (i.mnemonic = .cmp → compares s.a) ∧ (i.mnemonic = .cpx → compares s.x) ∧
    (i.mnemonic = .cpy → compares s.y)

/-! ### Increment, decrement, shift, rotate -/

/-- INC and DEC (R231, R232): one read and one write of the same address, Z and N; C kept. -/
def Obligations.IncAndDecOfMemory : Prop :=
  HasForms .inc [(0xE6, .zpg), (0xF6, .zpgX), (0xEE, .abs), (0xFE, .absX)] ∧
  HasForms .dec [(0xC6, .zpg), (0xD6, .zpgX), (0xCE, .abs), (0xDE, .absX)] ∧
  ∀ (i : Instr) (s : State),
    let modified (r : Byte) : Prop := ∃ ea t, targetOf i s = .addr ea ∧ exec i s = .next t ∧
      ZNSet r s.p t.p ∧
      t = { memWrite ea r (afterOperandOf i s) with
        p := t.p, cycles := s.cycles + readCycles i s }
    (i.mnemonic = .inc → modified (operandOf i s + 1)) ∧
    (i.mnemonic = .dec → modified (operandOf i s - 1))

/-- INX, INY, DEX, DEY (R233 to R236). -/
def Obligations.IncAndDecOfRegisters : Prop :=
  HasForms .inx [(0xE8, .impl)] ∧ HasForms .iny [(0xC8, .impl)] ∧
  HasForms .dex [(0xCA, .impl)] ∧ HasForms .dey [(0x88, .impl)] ∧
  ∀ s : State,
    (∃ t, exec .inx s = .next t ∧ ZNSet (s.x + 1) s.p t.p ∧
      t = { s with x := s.x + 1, p := t.p, cycles := s.cycles + baseCycles s.params 0xE8 }) ∧
    (∃ t, exec .iny s = .next t ∧ ZNSet (s.y + 1) s.p t.p ∧
      t = { s with y := s.y + 1, p := t.p, cycles := s.cycles + baseCycles s.params 0xC8 }) ∧
    (∃ t, exec .dex s = .next t ∧ ZNSet (s.x - 1) s.p t.p ∧
      t = { s with x := s.x - 1, p := t.p, cycles := s.cycles + baseCycles s.params 0xCA }) ∧
    (∃ t, exec .dey s = .next t ∧ ZNSet (s.y - 1) s.p t.p ∧
      t = { s with y := s.y - 1, p := t.p, cycles := s.cycles + baseCycles s.params 0x88 })

/-- ASL, LSR, ROL, ROR (R237 to R240): on `A` in mode acc, else one read and one write of the same
address; the carry is the bit shifted out, the old carry enters a rotate. -/
def Obligations.ShiftsAndRotates : Prop :=
  HasForms .asl [(0x0A, .acc), (0x06, .zpg), (0x16, .zpgX), (0x0E, .abs), (0x1E, .absX)] ∧
  HasForms .lsr [(0x4A, .acc), (0x46, .zpg), (0x56, .zpgX), (0x4E, .abs), (0x5E, .absX)] ∧
  HasForms .rol [(0x2A, .acc), (0x26, .zpg), (0x36, .zpgX), (0x2E, .abs), (0x3E, .absX)] ∧
  HasForms .ror [(0x6A, .acc), (0x66, .zpg), (0x76, .zpgX), (0x6E, .abs), (0x7E, .absX)] ∧
  ∀ (i : Instr) (s : State),
    let m := operandOf i s
    let old : Nat := (getFlag .C s.p).toNat
    let shifted (out : Nat) (c : Bool) : Prop := ∃ t, exec i s = .next t ∧
      CZNSet c (BitVec.ofNat 8 out) s.p t.p ∧
      ((i.mode = .acc ∧ m = s.a ∧ t = { s with
          a := BitVec.ofNat 8 out, p := t.p, cycles := s.cycles + readCycles i s }) ∨
       (i.mode ≠ .acc ∧ ∃ ea, targetOf i s = .addr ea ∧
          t = { memWrite ea (BitVec.ofNat 8 out) (afterOperandOf i s) with
            p := t.p, cycles := s.cycles + readCycles i s }))
    (i.mnemonic = .asl → shifted (2 * m.toNat) (m.getLsbD 7)) ∧
    (i.mnemonic = .lsr → shifted (m.toNat / 2) (m.getLsbD 0)) ∧
    (i.mnemonic = .rol → shifted (2 * m.toNat + old) (m.getLsbD 7)) ∧
    (i.mnemonic = .ror → shifted (m.toNat / 2 + 128 * old) (m.getLsbD 0))

/-! ### Control -/

/-- JMP (R261): `PC` is the operand word, or the pointer's word, the high byte of which wraps in the
page; the target is not read. -/
def Obligations.JmpSetsPc : Prop :=
  HasForms .jmp [(0x4C, .abs), (0x6C, .ind)] ∧
  ∀ (s : State) (w : Word),
    exec (.jmpAbs w) s = .next { s with
      pc := w, pcSet := true, cycles := s.cycles + baseCycles s.params 0x4C } ∧
    exec (.jmpInd w) s = .next { afterPointer w s with
      pc := pointerWord w s, pcSet := true, cycles := s.cycles + baseCycles s.params 0x6C }

/-- JSR (45_control.md, Jumps and subroutines): pushes the address of its last byte, high byte first,
and jumps. -/
def Obligations.JsrPushesReturnAddress : Prop :=
  HasForms .jsr [(0x20, .abs)] ∧
  ∀ (s : State) (w : Word),
    exec (.jsr w) s = .next { memWrite (stackAddr (s.sp - 1)) (lo8 (s.pc - 1))
        (memWrite (stackAddr s.sp) (hi8 (s.pc - 1)) s) with
      sp := s.sp - 2, pc := w, pcSet := true, cycles := s.cycles + baseCycles s.params 0x20 }

/-- RTS (R263): `PC <- Pull16() + 1`, mod 2^16. -/
def Obligations.RtsReturnsPastThePulledWord : Prop :=
  HasForms .rts [(0x60, .impl)] ∧
  ∀ s : State,
    let a1 := stackAddr (s.sp + 1)
    let a2 := stackAddr (s.sp + 2)
    let u := afterRead a1 s
    exec .rts s = .next { afterRead a2 u with
      sp := s.sp + 2, pc := concat (readByte a2 u) (readByte a1 s) + 1, pcSet := true
      cycles := s.cycles + baseCycles s.params 0x60 }

/-- The eight branches by the helper of 45_control.md, Branches: taken, the offset byte is read, 1 cycle is
added, 3 across a page; not taken, nothing is read, which is the spec's decision D17 (log 12, DEDUCED). -/
def Obligations.BranchesTestTheirFlag : Prop :=
  BranchesWhen .bcc 0x90 .C false ∧ BranchesWhen .bcs 0xB0 .C true ∧
  BranchesWhen .beq 0xF0 .Z true ∧ BranchesWhen .bmi 0x30 .N true ∧
  BranchesWhen .bne 0xD0 .Z false ∧ BranchesWhen .bpl 0x10 .N false ∧
  BranchesWhen .bvc 0x50 .V false ∧ BranchesWhen .bvs 0x70 .V true ∧
  HasForms .bcc [(0x90, .rel)] ∧ HasForms .bcs [(0xB0, .rel)] ∧ HasForms .beq [(0xF0, .rel)] ∧
  HasForms .bmi [(0x30, .rel)] ∧ HasForms .bne [(0xD0, .rel)] ∧ HasForms .bpl [(0x10, .rel)] ∧
  HasForms .bvc [(0x50, .rel)] ∧ HasForms .bvs [(0x70, .rel)]

/-! ### Flags, BRK, NOP, undefined bytes -/

/-- CLC, SEC, CLI, SEI, CLD, SED, CLV, NOP (R291 to R297, R299): one flag written, or none. -/
def Obligations.FlagInstructionsWriteOneFlag : Prop :=
  HasForms .clc [(0x18, .impl)] ∧ HasForms .sec [(0x38, .impl)] ∧ HasForms .cli [(0x58, .impl)] ∧
  HasForms .sei [(0x78, .impl)] ∧ HasForms .cld [(0xD8, .impl)] ∧ HasForms .sed [(0xF8, .impl)] ∧
  HasForms .clv [(0xB8, .impl)] ∧ HasForms .nop [(0xEA, .impl)] ∧
  ∀ s : State,
    let writes (i : Instr) (f : Flag) (v : Bool) : Prop := ∃ t, exec i s = .next t ∧
      FlagSet f v s.p t.p ∧ t = { s with p := t.p, cycles := s.cycles + baseOf i s }
    writes .clc .C false ∧ writes .sec .C true ∧ writes .cli .I false ∧ writes .sei .I true ∧
    writes .cld .D false ∧ writes .sed .D true ∧ writes .clv .V false ∧
    exec .nop s = .next { s with cycles := s.cycles + baseOf .nop s }

/-- BRK (46_flags_misc.md, BRK and NOP; one byte, base 0 and clearing of IRQ are the spec's own
decisions D10, D11, D12, log 11 and log 13): the IRQ service path whatever `P.I` is, the pushed status
with B and U set; without a `PC`, PcUnset. -/
def Obligations.BrkTakesTheIrqPath : Prop :=
  HasForms .brk [(0x00, .impl)] ∧
  ∀ s : State,
    (s.pcSet = true →
      let t := vectored .irq 0xFFFE (s.sp - 3) (framed (s.p ||| 0x30) s)
      exec .brk s = .next { t with cycles := t.cycles + baseCycles s.params 0x00 }) ∧
    (s.pcSet = false → exec .brk s = .fault .pcUnset)

/-- An undefined byte halts the core and changes nothing else (60_exceptions.md, Halting and failure;
no cycle and `PC` past the byte are the spec's own decision D13, log 14). -/
def Obligations.UndefinedByteHalts : Prop :=
  ∀ (op : Byte) (s : State),
    exec (.undefinedHalt op) s = .next { s with run := .halted }

/-! ### Interrupts -/

/-- `Get()` and `Service(k)` (R312, R313), and `Request(k)`. -/
def Obligations.LatchOperations : Prop :=
  ∀ (l : Latch) (k j : Line),
    (l.get = some .nmi ↔ l.has .nmi = true) ∧
    (l.get = some .reset ↔ l.has .nmi = false ∧ l.has .reset = true) ∧
    (l.get = some .irq ↔ l.has .nmi = false ∧ l.has .reset = false ∧ l.has .irq = true) ∧
    (l.service k).has j = (if j = k then false else l.has j) ∧
    (l.request k).has j = (if j = k then true else l.has j)

/-- The IRQ gate at step entry (R317): with `P.I = 1` the step runs the next instruction and the IRQ
stays pending (BRK alone clears it, by its own service); with `P.I = 0` it is serviced. -/
def Obligations.IrqGateAtStepEntry : Prop :=
  ∀ s : State, s.run = .running → s.pending.get = some .irq →
    (getFlag .I s.p = true → s.pcSet = true →
      let i := nextInstr s
      step s = exec i (commitFetch i.mode s) ∧ (commitFetch i.mode s).pending.irq = true ∧
      ∀ t, step s = .next t → i.mnemonic ≠ .brk → t.pending.irq = true) ∧
    (getFlag .I s.p = false → step s = serviceInterrupt .irq false s)

/-- A pending NMI, and a pending RESET without NMI, are serviced whatever `P.I` is; each service clears
its own line and no other (60_exceptions.md, Taking an interrupt). -/
def Obligations.NmiAndResetAreNeverBlocked : Prop :=
  ∀ s : State, s.run = .running →
    (s.pending.nmi = true → step s = serviceInterrupt .nmi false s) ∧
    (s.pending.nmi = false → s.pending.reset = true → step s = serviceInterrupt .reset false s) ∧
    ∀ (k j : Line) (brk : Bool) (t : State), serviceInterrupt k brk s = .next t →
      t.pending.has k = false ∧
      (j ≠ k → s.pending.has j = true → t.pending.has j = true)

/-- The service path (60_exceptions.md, Taking an interrupt: R320 to R322 with the spec's decision D6 as a
parameter): what NMI, IRQ and RESET push, set, charge, load and clear; PcUnset for a push of an unset
`PC`. -/
def Obligations.ServicePath : Prop :=
  ∀ (s : State) (brk : Bool),
    let status : Byte := if brk then s.p ||| 0x30
      else if s.params.hwPushClearsB then (s.p &&& 0xEF) ||| 0x20 else s.p
    (s.pcSet = true →
      serviceInterrupt .nmi brk s =
        .next (vectored .nmi 0xFFFA (s.sp - 3) (framed status s)) ∧
      serviceInterrupt .irq brk s =
        .next (vectored .irq 0xFFFE (s.sp - 3) (framed status s))) ∧
    (s.pcSet = false → serviceInterrupt .nmi brk s = .fault .pcUnset ∧
      serviceInterrupt .irq brk s = .fault .pcUnset) ∧
    (s.params.resetOverrideC000 = false →
      serviceInterrupt .reset brk s = .next (vectored .reset 0xFFFC s.sp s)) ∧
    (s.params.resetOverrideC000 = true →
      serviceInterrupt .reset brk s = .next { s with
        p := putFlag .I true s.p, cycles := s.cycles + 7, pc := 0xC000, pcSet := true
        pending := s.pending.service .reset })

/-- The stack after a service other than RESET's (60_exceptions.md, Taking an interrupt): status, `PC` low,
`PC` high from the top, and `S` three less, where the slots are memory. That every other byte but the
slots' mirrors is as before is the model's choice of how a bus is given (log 2, DESIGN CHOICE). -/
def Obligations.ServiceLeavesFrameOnTheStack : Prop :=
  ∀ (s t : State) (k : Line) (brk : Bool), k ≠ .reset → StackIsMemory s →
    serviceInterrupt k brk s = .next t →
    t.sp = s.sp - 3 ∧
    peek t (stackAddr (t.sp + 1)) = some (pushedStatus s.params.hwPushClearsB brk s.p) ∧
    peek t (stackAddr (t.sp + 2)) = some (lo8 s.pc) ∧
    peek t (stackAddr (t.sp + 3)) = some (hi8 s.pc) ∧
    SameMemoryBut [stackAddr s.sp, stackAddr (s.sp - 1), stackAddr (s.sp - 2)] s t

/-- RTI undoes a service (60_exceptions.md, Return and nesting; 95_test_vectors.md property 9), where the
slots are memory (log 2): in any later state with the same `S` and the same three bytes above it, RTI
restores `PC`, `S` and every bit of `P`, with U forced to 1, and with B as the service pushed it. -/
def Obligations.RtiUndoesAService : Prop :=
  ∀ (s t u : State) (k : Line) (brk : Bool), k ≠ .reset → StackIsMemory s →
    serviceInterrupt k brk s = .next t → u.sp = t.sp →
    (∀ n : Byte, n = 1 ∨ n = 2 ∨ n = 3 →
      peek u (stackAddr (u.sp + n)) = peek t (stackAddr (t.sp + n))) →
    ∃ v, exec .rti u = .next v ∧ v.pc = s.pc ∧ v.sp = s.sp ∧
      ∀ f, getFlag f v.p = if f = .U then true
        else if f = .B ∧ (brk || s.params.hwPushClearsB) = true then brk else getFlag f s.p

/-- A change of I acts on the gate at the very next step (70_reset_and_hazards.md, Ordering and hazards, the
spec's own inference R360): after CLI a pending IRQ is serviced, after SEI it is not, after PLP and
after RTI the pulled bit decides. -/
def Obligations.FlagIActsAtTheNextStep : Prop :=
  ∀ s t : State, t.run = .running → t.pending.get = some .irq →
    (exec .cli s = .next t → step t = serviceInterrupt .irq false t) ∧
    (exec .sei s = .next t → takenLine t = none) ∧
    (exec .plp s = .next t ∨ exec .rti s = .next t → takenLine t =
      if (readByte (stackAddr (s.sp + 1)) s).getLsbD 2 then none else some .irq)

/-! ### The step -/

/-- A step runs the decoded instruction: where an instruction is executed and the described bytes at `PC`
decode to `i`, the step is `exec i` after the fetch, which moves `PC` past the instruction, makes the
fetch's bus calls and changes nothing else, neither the latch nor the devices, since no device answers
there (40_step_and_addressing.md, The step; the record and the count of calls are log 8's and log 9's). -/
def Obligations.StepRunsTheDecodedInstruction : Prop :=
  ∀ (s : State) (bs rest : List Byte) (i : Instr), Executes s →
    (∀ (n : Nat) (h : n < bs.length), peek s (s.pc + BitVec.ofNat 16 n) = some bs[n]) →
    decode bs = .ok i rest →
    let c := commitFetch i.mode s
    step s = exec i c ∧
    c = { s with
      pc := s.pc + BitVec.ofNat 16 i.length, busLog := c.busLog, busCalls := c.busCalls } ∧
    callsIn c = (fetchCalls i.mode s.pc).reverse ++ callsIn s

/-- The only stop is PcUnset (60_exceptions.md, Halting and failure, R334): exactly a running step that
would fetch, or push, an unset `PC`. Nothing is refused. -/
def Obligations.StepStopsOnlyWithPcUnset : Prop :=
  ∀ s : State,
    (∀ f : Fault, step s = .fault f ↔
      f = .pcUnset ∧ s.run = .running ∧ s.pcSet = false ∧ takenLine s ≠ some .reset) ∧
    ∀ r : Refusal, step s ≠ .refused r

/-- Every instruction completes in every state in which `PC` holds a value, which it then still does:
none is privileged and none traps (60_exceptions.md, Privilege and the rest of the machine). -/
def Obligations.EveryInstructionCompletes : Prop :=
  ∀ (i : Instr) (s : State), s.pcSet = true → ∃ t, exec i s = .next t ∧ t.pcSet = true

/-- A step in Halted changes nothing and returns 0 (60_exceptions.md, Halting and failure, the spec's
decision D14, log 14). -/
def Obligations.HaltedStepChangesNothing : Prop :=
  ∀ s : State, s.run = .halted → step s = .next s ∧ stepCycles s = some 0

/-- Halted (R39): a running step reaches it only by decoding an undefined byte, and always then; only
`power_cycle()` and `reset()` leave it; `state()` shows it. -/
def Obligations.HaltedIsReachedOnlyByUndefinedBytes : Prop :=
  (∀ s : State, runStateOf s = s.run) ∧
  (∀ s t : State, s.run = .running → step s = .next t →
    (t.run = .halted ↔ Executes s ∧ (nextInstr s).mnemonic = .unimplemented)) ∧
  (∀ s t : State, s.run = .halted → step s = .next t → t.run = .halted) ∧
  ∀ (h : HostOp) (s : State), s.run = .halted →
    ((h.apply s).run = .running ↔ h = .powerCycle ∨ h = .reset)

/-- A service charges 7 cycles, whatever its kind, BRK's too (R323); a step that services a line does
nothing else. -/
def Obligations.ServiceChargesSevenCycles : Prop :=
  (∀ (s t : State) (k : Line) (brk : Bool),
    serviceInterrupt k brk s = .next t → t.cycles = s.cycles + 7) ∧
  ∀ (s : State) (k : Line), s.run = .running → takenLine s = some k →
    (k = .reset ∨ s.pcSet = true) →
    ∃ t, step s = .next t ∧ serviceInterrupt k false s = .next t ∧ t.cycles = s.cycles + 7 ∧
      stepCycles s = some 7 ∧ t.a = s.a ∧ t.x = s.x ∧ t.y = s.y ∧ t.run = .running ∧
      FlagSet .I true s.p t.p

/-- What each instruction charges (70_reset_and_hazards.md, Timing; 40_step_and_addressing.md, Helpers and
dispatch): the base count, 1 for a flagged read or read-modify-write that crosses a page, a taken
branch's 1 or 3, BRK's 7; an undefined byte charges nothing (D13). -/
def Obligations.CyclesChargedByAnInstruction : Prop :=
  ∀ (i : Instr) (s t : State), exec i s = .next t →
    t.cycles = s.cycles +
      if i.mnemonic = .unimplemented then 0
      else baseCycles s.params i.opcode +
        (if i.mnemonic ∈ readers ++ modifiers ∧ pageCrossFlag s.params i.opcode = true ∧
            (resolve i.form s).crossed = true then 1 else 0) +
        (if branchTaken i.mnemonic s.p = true then
            (if page s.pc = page t.pc then 1 else 3) else 0) +
        (if i.mnemonic = .brk then 7 else 0)

/-- A step returns 0 only when the core was already Halted or the step halts, under the default tables
(70_reset_and_hazards.md, Host interface, the spec's own inference in R357). -/
def Obligations.ZeroCyclesOnlyWhenHaltedOrHalting : Prop :=
  ∀ s : State, s.params = Params.standard →
    (stepCycles s = some 0 ↔
      s.run = .halted ∨ (Executes s ∧ (nextInstr s).mnemonic = .unimplemented))

/-- The complete, ordered bus calls of every step (40_step_and_addressing.md, The bus calls of each step;
the order and the absence of other calls are the spec's decisions D2, D3, D17, D18, log 12). -/
def Obligations.BusCallsOfAStep : Prop :=
  ∀ s t : State, step s = .next t → callsIn t = (stepCalls s).reverse ++ callsIn s

/-- The boot step (70_reset_and_hazards.md, Power-up and reset, R354, from the launch state of D29, log 6):
RESET is serviced, nothing is pushed, 7 cycles are charged, `PC` is the RESET vector. -/
def Obligations.BootLoadsTheResetVector : Prop :=
  ∀ (m : Memory) (r : List Route) (d : List Nat) (c : Params) (lo hi : Byte) (n : Nat)
    (l : List BusCall),
    let s := { State.reset with
      mem := m, routes := r, devices := d, params := c, busCalls := n, busLog := l }
    peek s 0xFFFC = some lo → peek s 0xFFFD = some hi → c.resetOverrideC000 = false →
    stepCycles s = some 7 ∧
    step s = .next { s with
      pc := concat hi lo, pcSet := true, cycles := 7
      pending := { nmi := false, reset := false, irq := false }
      busLog := .read 0xFFFD :: .read 0xFFFC :: l, busCalls := n + 2 }

/-! ### Host operations -/

/-- `power_cycle()`, `reset()`, `Request`, withdrawal (70_reset_and_hazards.md, Power-up and reset;
60_exceptions.md, The interrupt latch): all they change. The launch state is the power-up values with
RESET requested (D5, D16, D24, D29, log 6 and log 15). -/
def Obligations.HostOperations : Prop :=
  State.reset = request .reset (powerCycle { State.reset with
    pending := { nmi := false, reset := false, irq := false } }) ∧
  ∀ (s : State) (k : Line),
    (let t := powerCycle s
     t = { s with
       pc := t.pc, pcSet := false, sp := 0xFD, a := 0, x := 0, y := 0, p := 0x34
       run := .running, cycles := 0 }) ∧
    (let t := hostReset s
     FlagSet .I true s.p t.p ∧ t = { s with sp := s.sp - 3, p := t.p, run := .running }) ∧
    request k s = { s with pending := s.pending.request k } ∧
    withdraw k s = { s with pending := s.pending.service k }

/-! ### Invariants -/

/-- The invariant at launch. -/
def Obligations.LaunchStateMeetsInvariant : Prop := Invariant State.reset

/-- Every step keeps the invariant: the memory's canonical form and `P.U = 1` (10_state.md, The status
register, the spec's own inference in R34). -/
def Obligations.StepKeepsInvariant : Prop :=
  ∀ s t : State, Invariant s → step s = .next t → Invariant t

/-- Every state reachable from power-up by steps and host operations, on any bus and under any
parameters, meets the invariant: `P.U = 1` is the spec's own inference in R34 (10_state.md, The status
register); the canonical form of the memory is log 1's, the host operations are log 15's. -/
def Obligations.ReachableStatesMeetInvariant : Prop := ∀ s : State, Reachable s → Invariant s

/-! ### Frames -/

/-- A byte written to a writable memory cell is there for the next read or fetch, at its address and at
every mirror of it, and every other byte is as before; a write to ROM changes no cell; a device is read
and written by the bus of R60 in the devices' state, and the lines it asserts are latched
(20_memory.md, The bus port and Ordering and synchronisation). Cells, ROM, mirrors and devices are the
model's choice of how a bus is given (log 2, DESIGN CHOICE); the record and the count of calls are log
8's and log 9's. -/
def Obligations.WrittenByteIsReadBack : Prop :=
  ∀ (s : State) (a : Word) (v : Byte),
    let t := memWrite a v s
    (∀ (n : Word) (w : Bool) (b : Word), placeOf s a = .cell n true → placeOf s b = .cell n w →
      peek t b = some v ∧ readByte b t = v) ∧
    (∀ n : Word, placeOf s a = .cell n false → SameMemory s t) ∧
    (placeOf s a = .device →
      let r := Config.bus.read s.devices a
      let w := Config.bus.write s.devices a v
      memRead a s = (r.1, { s with
        devices := r.2.1, pending := s.pending.addAll r.2.2
        busLog := .read a :: s.busLog, busCalls := s.busCalls + 1 }) ∧
      t = { s with
        devices := w.1, pending := s.pending.addAll w.2
        busLog := .write a v :: s.busLog, busCalls := s.busCalls + 1 }) ∧
    SameMemoryBut [a] s t

/-- Instructions that store nothing leave every byte of memory (each instruction's rule). That a read
changes no memory cell is the model's choice of how a bus is given (log 2, DESIGN CHOICE). -/
def Obligations.NonStoringInstructionsKeepMemory : Prop :=
  ∀ (i : Instr) (s t : State), i.mnemonic ∉ storers ++ pushers →
    (i.mnemonic ∈ modifiers → i.mode = .acc) → exec i s = .next t → SameMemory s t

/-- Stores and read-modify-writes leave every byte but the one at their target and its mirrors (each
instruction's rule). That the target's write changes no other memory cell is the model's choice of how
a bus is given (log 2, DESIGN CHOICE). -/
def Obligations.StoringInstructionsKeepOtherMemory : Prop :=
  ∀ (i : Instr) (s t : State) (ea : Word), i.mnemonic ∈ storers ++ modifiers →
    exec i s = .next t → targetOf i s = .addr ea → SameMemoryBut [ea] s t

/-- Pushing instructions leave every byte but their slots and the mirrors of these: one slot for PHA and
PHP, two for JSR, three for BRK (each instruction's rule). That a push changes no other memory cell is
the model's choice of how a bus is given (log 2, DESIGN CHOICE). -/
def Obligations.PushingInstructionsKeepOtherMemory : Prop :=
  ∀ (i : Instr) (s t : State), exec i s = .next t →
    (i.mnemonic ∈ [.pha, .php] → SameMemoryBut [stackAddr s.sp] s t) ∧
    (i.mnemonic = .jsr → SameMemoryBut [stackAddr s.sp, stackAddr (s.sp - 1)] s t) ∧
    (i.mnemonic = .brk →
      SameMemoryBut [stackAddr s.sp, stackAddr (s.sp - 1), stackAddr (s.sp - 2)] s t)

/-- Which instructions write each register (10_state.md, The register file, the spec's own table in R26);
only an undefined byte changes the run state. -/
def Obligations.RegistersWrittenOnlyByTheirWriters : Prop :=
  ∀ (i : Instr) (s t : State), exec i s = .next t →
    (i.mnemonic ∉ [.lda, .txa, .tya, .pla, .and, .ora, .eor, .adc, .sbc] →
      ¬(i.mnemonic ∈ [.asl, .lsr, .rol, .ror] ∧ i.mode = .acc) → t.a = s.a) ∧
    (i.mnemonic ∉ [.ldx, .tax, .tsx, .inx, .dex] → t.x = s.x) ∧
    (i.mnemonic ∉ [.ldy, .tay, .iny, .dey] → t.y = s.y) ∧
    (i.mnemonic ∉ [.txs, .pha, .php, .pla, .plp, .jsr, .rts, .rti, .brk] → t.sp = s.sp) ∧
    (i.mnemonic ∉ [.jmp, .jsr, .rts, .rti, .brk] ++ branches → t.pc = s.pc) ∧
    (i.mnemonic ≠ .unimplemented → t.run = s.run)

/-- Which instructions write each flag (R29, R30, R31, R33, R35, R36 and 10_state.md, The status
register): every other instruction leaves it, and U stays 1. -/
def Obligations.FlagsWrittenOnlyByTheirWriters : Prop :=
  ∀ (i : Instr) (s t : State), exec i s = .next t →
    (∀ f : Flag, i.mnemonic ∉ flagWriters f → getFlag f t.p = getFlag f s.p) ∧
    (i.mnemonic = .plp ∨ i.mnemonic = .rti → getFlag .U t.p = true)

/-- What no step changes, and what an instruction does to the latch: the parameters and the bus's
routes stay, both the model's choice (log 5; log 2: the spec leaves routing and bank switching to the
bus, and a switched bank is a device's); a pending line stays pending through every instruction but
BRK, which clears IRQ (60_exceptions.md, Taking an interrupt; D12, log 13). -/
def Obligations.ConfigurationAndPendingLinesAreKept : Prop :=
  (∀ s t : State, step s = .next t → t.params = s.params ∧ t.routes = s.routes) ∧
  ∀ (i : Instr) (s t : State) (k : Line), exec i s = .next t → s.pending.has k = true →
    ¬(i.mnemonic = .brk ∧ k = .irq) → t.pending.has k = true

/-- The decimal flag changes nothing but itself and the pushed copies of `P` (10_state.md, The status
register, R32): every instruction that neither pushes nor writes it runs alike with D set and clear. -/
def Obligations.DecimalFlagHasNoEffect : Prop :=
  ∀ (i : Instr) (s t : State) (d : Bool), i.mnemonic ∉ [.php, .brk, .plp, .rti, .cld, .sed] →
    exec i s = .next t →
    exec i { s with p := putFlag .D d s.p } = .next { t with p := putFlag .D d t.p }
end

