-- ==== Sys2Proof/Laws/Memory.lean ====
section
/-! SUPPORT. The laws of the list memory, of bytes within words, and of the bits of `P`. -/

namespace Sys2Proof.Machine

/-! ### The list memory -/

@[simp] theorem Memory.byteAt_put_same (m : Memory) (a : Nat) (v : Byte) :
    (Memory.put m a v).byteAt a = some v := by
  induction m with
  | nil => simp [Memory.put, Memory.byteAt]
  | cons c m ih =>
    simp only [Memory.put]
    split
    · simp [Memory.byteAt]
    · split
      · simp [Memory.byteAt]
      · rename_i h1 h2
        simp [Memory.byteAt, ih, Ne.symm h2]

theorem Memory.byteAt_put_ne (m : Memory) {a b : Nat} (h : b ≠ a) (v : Byte) :
    (Memory.put m a v).byteAt b = m.byteAt b := by
  induction m with
  | nil => simp [Memory.put, Memory.byteAt, Ne.symm h]
  | cons c m ih =>
    simp only [Memory.put]
    split
    · simp [Memory.byteAt, Ne.symm h]
    · split
      · rename_i h1 h2
        have hcb : c.1 ≠ b := fun e => h (e.symm.trans h2.symm)
        simp [Memory.byteAt, Ne.symm h, hcb]
      · simp only [Memory.byteAt, ih]

theorem Memory.mem_put {m : Memory} {a : Nat} {v : Byte} {d : Host.Cell}
    (h : d ∈ Memory.put m a v) : d = (a, v) ∨ d ∈ m := by
  induction m with
  | nil => simpa [Memory.put] using h
  | cons c m ih =>
    simp only [Memory.put] at h
    split at h
    · simpa using h
    · split at h
      · rcases List.mem_cons.1 h with h | h
        · exact .inl h
        · exact .inr (List.mem_cons_of_mem _ h)
      · rcases List.mem_cons.1 h with h | h
        · exact .inr (h ▸ List.mem_cons_self)
        · exact (ih h).imp id (List.mem_cons_of_mem _)

/-- Describing a byte keeps the canonical form. -/
theorem Memory.put_wf {m : Memory} {a : Nat} {v : Byte} (h : m.wf) (ha : a < 65536) :
    (Memory.put m a v).wf := by
  refine ⟨?_, fun d hd => (Memory.mem_put hd).elim (fun e => e ▸ ha) (h.2 d)⟩
  have hp := h.1
  clear h
  induction m with
  | nil => simp [Memory.put]
  | cons c m ih =>
    obtain ⟨hc, hm⟩ := List.pairwise_cons.1 hp
    simp only [Memory.put]
    split
    · rename_i hlt
      refine List.pairwise_cons.2 ⟨fun d hd => ?_, hp⟩
      rcases List.mem_cons.1 hd with rfl | hd
      · exact hlt
      · exact Nat.lt_trans hlt (hc d hd)
    · split
      · rename_i _ he
        exact List.pairwise_cons.2 ⟨fun d hd => he ▸ hc d hd, hm⟩
      · rename_i h1 h2
        refine List.pairwise_cons.2 ⟨fun d hd => ?_, ih hm⟩
        rcases Memory.mem_put hd with rfl | hd
        · exact Nat.lt_of_le_of_ne (Nat.le_of_not_lt h1) (Ne.symm h2)
        · exact hc d hd

/-! ### Bytes and words -/

@[simp] theorem concat_hi8_lo8 (w : Word) : concat (hi8 w) (lo8 w) = w := by
  apply BitVec.eq_of_getLsbD_eq
  intro i hi
  simp only [concat, hi8, lo8, BitVec.getLsbD_append, BitVec.getLsbD_extractLsb']
  split <;> rename_i h
  · simp [h]
  · have h2 : i - 8 < 8 := by omega
    have h3 : 8 + (i - 8) = i := by omega
    simp [h2, h3]

@[simp] theorem hi8_concat (h l : Byte) : hi8 (concat h l) = h := by
  apply BitVec.eq_of_getLsbD_eq
  intro i hi
  simp only [concat, hi8, BitVec.getLsbD_extractLsb', BitVec.getLsbD_append]
  simp [hi]

@[simp] theorem lo8_concat (h l : Byte) : lo8 (concat h l) = l := by
  apply BitVec.eq_of_getLsbD_eq
  intro i hi
  simp only [concat, lo8, BitVec.getLsbD_extractLsb', BitVec.getLsbD_append]
  simp [hi]

theorem stackAddr_or (v : Byte) : 0x0100#16 ||| v.setWidth 16 = 0x0100#16 + v.setWidth 16 := by
  revert v; decide

/-! ### The bits of `P` -/

theorem Flag.bit_lt (f : Flag) : f.bit < 8 := by cases f <;> decide

theorem Flag.bit_inj {f g : Flag} (h : f.bit = g.bit) : f = g := by
  cases f <;> cases g <;> first | rfl | exact absurd h (by decide)

/-- The one-bit mask of a flag. -/
theorem getLsbD_mask (f g : Flag) : (1#8 <<< g.bit).getLsbD f.bit = decide (f = g) := by
  revert f g
  intro f g
  cases f <;> cases g <;> rfl

/-- Reading a flag after writing one. -/
theorem getFlag_putFlag (f g : Flag) (v : Bool) (p : Byte) :
    getFlag f (putFlag g v p) = if f = g then v else getFlag f p := by
  cases v
  · have h : getFlag f (putFlag g false p) =
        (p.getLsbD f.bit && !(1#8 <<< g.bit).getLsbD f.bit) := by
      simp only [getFlag, putFlag, Bool.false_eq_true, if_false, BitVec.getLsbD_and,
        BitVec.getLsbD_not, f.bit_lt, decide_true, Bool.true_and]
    rw [h, getLsbD_mask]
    by_cases e : f = g <;> simp [e, getFlag]
  · have h : getFlag f (putFlag g true p) =
        (p.getLsbD f.bit || (1#8 <<< g.bit).getLsbD f.bit) := by
      simp only [getFlag, putFlag, if_true, BitVec.getLsbD_or]
    rw [h, getLsbD_mask]
    by_cases e : f = g <;> simp [e, getFlag]

@[simp] theorem getFlag_putFlag_same (f : Flag) (v : Bool) (p : Byte) :
    getFlag f (putFlag f v p) = v := by simp [getFlag_putFlag]

theorem getFlag_putFlag_ne {f g : Flag} (h : f ≠ g) (v : Bool) (p : Byte) :
    getFlag f (putFlag g v p) = getFlag f p := by simp [getFlag_putFlag, h]

/-- Two status bytes with the same flags are the same byte. -/
theorem eq_of_getFlag {p q : Byte} (h : ∀ f, getFlag f p = getFlag f q) : p = q := by
  apply BitVec.eq_of_getLsbD_eq
  intro i hi
  have hb : ∃ f : Flag, f.bit = i := by
    have : ∀ j : Fin 8, ∃ f : Flag, f.bit = j.val := by
      intro j
      match j with
      | 0 => exact ⟨.C, rfl⟩
      | 1 => exact ⟨.Z, rfl⟩
      | 2 => exact ⟨.I, rfl⟩
      | 3 => exact ⟨.D, rfl⟩
      | 4 => exact ⟨.B, rfl⟩
      | 5 => exact ⟨.U, rfl⟩
      | 6 => exact ⟨.V, rfl⟩
      | 7 => exact ⟨.N, rfl⟩
    exact this ⟨i, hi⟩
  obtain ⟨f, rfl⟩ := hb
  exact h f

/-- What `SetZN(v)` does to every flag (R140). -/
theorem getFlag_setZN (f : Flag) (v p : Byte) :
    getFlag f (setZN v p) =
      if f = .N then v.msb else if f = .Z then v == 0 else getFlag f p := by
  simp only [setZN, getFlag_putFlag]

/-- The constant bytes of R190, R264 and R321, bit by bit. -/
theorem getLsbD_forced (f : Flag) :
    (0x20#8).getLsbD f.bit = decide (f = .U) ∧ (0xEF#8).getLsbD f.bit = decide (f ≠ .B) ∧
      (0x30#8).getLsbD f.bit = decide (f = .U ∨ f = .B) := by
  cases f <;> decide

theorem getFlag_pulledStatus (f : Flag) (v : Byte) :
    getFlag f (pulledStatus v) = if f = .U then true else getFlag f v := by
  have h : getFlag f (pulledStatus v) = (v.getLsbD f.bit || (0x20#8).getLsbD f.bit) :=
    BitVec.getLsbD_or
  rw [h, (getLsbD_forced f).1]
  by_cases e : f = .U <;> simp [e, getFlag]

theorem getFlag_pushedStatus (f : Flag) (c brk : Bool) (p : Byte) :
    getFlag f (pushedStatus c brk p) =
      if f = .U ∧ (brk || c) = true then true
      else if f = .B ∧ (brk || c) = true then brk
      else getFlag f p := by
  obtain ⟨h20, hEF, h30⟩ := getLsbD_forced f
  have hb : getFlag f (p ||| 0x30) = (p.getLsbD f.bit || (0x30#8).getLsbD f.bit) :=
    BitVec.getLsbD_or
  have hc : getFlag f ((p &&& 0xEF) ||| 0x20) =
      (p.getLsbD f.bit && (0xEF#8).getLsbD f.bit || (0x20#8).getLsbD f.bit) := by
    simp only [getFlag, BitVec.getLsbD_or, BitVec.getLsbD_and]; rfl
  cases brk <;> cases c <;>
    simp only [pushedStatus, hb, hc, h20, hEF, h30, if_true, if_false, Bool.false_eq_true] <;>
    cases f <;> simp [getFlag]

end Sys2Proof.Machine
end

