-- ==== Sys2Proof/Laws/State.lean ====
section
/-! SUPPORT. One lemma for each field of the state after each named update: no proof unfolds a record
update. -/

namespace Sys2Proof.Machine

/-! `setA` -/

@[simp] theorem setA_pc (v : Byte) (s : State) : (setA v s).pc = s.pc := rfl
@[simp] theorem setA_pcSet (v : Byte) (s : State) : (setA v s).pcSet = s.pcSet := rfl
@[simp] theorem setA_sp (v : Byte) (s : State) : (setA v s).sp = s.sp := rfl
@[simp] theorem setA_a (v : Byte) (s : State) : (setA v s).a = v := rfl
@[simp] theorem setA_x (v : Byte) (s : State) : (setA v s).x = s.x := rfl
@[simp] theorem setA_y (v : Byte) (s : State) : (setA v s).y = s.y := rfl
@[simp] theorem setA_p (v : Byte) (s : State) : (setA v s).p = s.p := rfl
@[simp] theorem setA_run (v : Byte) (s : State) : (setA v s).run = s.run := rfl
@[simp] theorem setA_cycles (v : Byte) (s : State) : (setA v s).cycles = s.cycles := rfl
@[simp] theorem setA_pending (v : Byte) (s : State) : (setA v s).pending = s.pending := rfl
@[simp] theorem setA_mem (v : Byte) (s : State) : (setA v s).mem = s.mem := rfl
@[simp] theorem setA_routes (v : Byte) (s : State) : (setA v s).routes = s.routes := rfl
@[simp] theorem setA_devices (v : Byte) (s : State) : (setA v s).devices = s.devices := rfl
@[simp] theorem setA_busLog (v : Byte) (s : State) : (setA v s).busLog = s.busLog := rfl
@[simp] theorem setA_busCalls (v : Byte) (s : State) : (setA v s).busCalls = s.busCalls := rfl
@[simp] theorem setA_params (v : Byte) (s : State) : (setA v s).params = s.params := rfl

/-! `setX` -/

@[simp] theorem setX_pc (v : Byte) (s : State) : (setX v s).pc = s.pc := rfl
@[simp] theorem setX_pcSet (v : Byte) (s : State) : (setX v s).pcSet = s.pcSet := rfl
@[simp] theorem setX_sp (v : Byte) (s : State) : (setX v s).sp = s.sp := rfl
@[simp] theorem setX_a (v : Byte) (s : State) : (setX v s).a = s.a := rfl
@[simp] theorem setX_x (v : Byte) (s : State) : (setX v s).x = v := rfl
@[simp] theorem setX_y (v : Byte) (s : State) : (setX v s).y = s.y := rfl
@[simp] theorem setX_p (v : Byte) (s : State) : (setX v s).p = s.p := rfl
@[simp] theorem setX_run (v : Byte) (s : State) : (setX v s).run = s.run := rfl
@[simp] theorem setX_cycles (v : Byte) (s : State) : (setX v s).cycles = s.cycles := rfl
@[simp] theorem setX_pending (v : Byte) (s : State) : (setX v s).pending = s.pending := rfl
@[simp] theorem setX_mem (v : Byte) (s : State) : (setX v s).mem = s.mem := rfl
@[simp] theorem setX_routes (v : Byte) (s : State) : (setX v s).routes = s.routes := rfl
@[simp] theorem setX_devices (v : Byte) (s : State) : (setX v s).devices = s.devices := rfl
@[simp] theorem setX_busLog (v : Byte) (s : State) : (setX v s).busLog = s.busLog := rfl
@[simp] theorem setX_busCalls (v : Byte) (s : State) : (setX v s).busCalls = s.busCalls := rfl
@[simp] theorem setX_params (v : Byte) (s : State) : (setX v s).params = s.params := rfl

/-! `setY` -/

@[simp] theorem setY_pc (v : Byte) (s : State) : (setY v s).pc = s.pc := rfl
@[simp] theorem setY_pcSet (v : Byte) (s : State) : (setY v s).pcSet = s.pcSet := rfl
@[simp] theorem setY_sp (v : Byte) (s : State) : (setY v s).sp = s.sp := rfl
@[simp] theorem setY_a (v : Byte) (s : State) : (setY v s).a = s.a := rfl
@[simp] theorem setY_x (v : Byte) (s : State) : (setY v s).x = s.x := rfl
@[simp] theorem setY_y (v : Byte) (s : State) : (setY v s).y = v := rfl
@[simp] theorem setY_p (v : Byte) (s : State) : (setY v s).p = s.p := rfl
@[simp] theorem setY_run (v : Byte) (s : State) : (setY v s).run = s.run := rfl
@[simp] theorem setY_cycles (v : Byte) (s : State) : (setY v s).cycles = s.cycles := rfl
@[simp] theorem setY_pending (v : Byte) (s : State) : (setY v s).pending = s.pending := rfl
@[simp] theorem setY_mem (v : Byte) (s : State) : (setY v s).mem = s.mem := rfl
@[simp] theorem setY_routes (v : Byte) (s : State) : (setY v s).routes = s.routes := rfl
@[simp] theorem setY_devices (v : Byte) (s : State) : (setY v s).devices = s.devices := rfl
@[simp] theorem setY_busLog (v : Byte) (s : State) : (setY v s).busLog = s.busLog := rfl
@[simp] theorem setY_busCalls (v : Byte) (s : State) : (setY v s).busCalls = s.busCalls := rfl
@[simp] theorem setY_params (v : Byte) (s : State) : (setY v s).params = s.params := rfl

/-! `setSp` -/

@[simp] theorem setSp_pc (v : Byte) (s : State) : (setSp v s).pc = s.pc := rfl
@[simp] theorem setSp_pcSet (v : Byte) (s : State) : (setSp v s).pcSet = s.pcSet := rfl
@[simp] theorem setSp_sp (v : Byte) (s : State) : (setSp v s).sp = v := rfl
@[simp] theorem setSp_a (v : Byte) (s : State) : (setSp v s).a = s.a := rfl
@[simp] theorem setSp_x (v : Byte) (s : State) : (setSp v s).x = s.x := rfl
@[simp] theorem setSp_y (v : Byte) (s : State) : (setSp v s).y = s.y := rfl
@[simp] theorem setSp_p (v : Byte) (s : State) : (setSp v s).p = s.p := rfl
@[simp] theorem setSp_run (v : Byte) (s : State) : (setSp v s).run = s.run := rfl
@[simp] theorem setSp_cycles (v : Byte) (s : State) : (setSp v s).cycles = s.cycles := rfl
@[simp] theorem setSp_pending (v : Byte) (s : State) : (setSp v s).pending = s.pending := rfl
@[simp] theorem setSp_mem (v : Byte) (s : State) : (setSp v s).mem = s.mem := rfl
@[simp] theorem setSp_routes (v : Byte) (s : State) : (setSp v s).routes = s.routes := rfl
@[simp] theorem setSp_devices (v : Byte) (s : State) : (setSp v s).devices = s.devices := rfl
@[simp] theorem setSp_busLog (v : Byte) (s : State) : (setSp v s).busLog = s.busLog := rfl
@[simp] theorem setSp_busCalls (v : Byte) (s : State) : (setSp v s).busCalls = s.busCalls := rfl
@[simp] theorem setSp_params (v : Byte) (s : State) : (setSp v s).params = s.params := rfl

/-! `setP` -/

@[simp] theorem setP_pc (v : Byte) (s : State) : (setP v s).pc = s.pc := rfl
@[simp] theorem setP_pcSet (v : Byte) (s : State) : (setP v s).pcSet = s.pcSet := rfl
@[simp] theorem setP_sp (v : Byte) (s : State) : (setP v s).sp = s.sp := rfl
@[simp] theorem setP_a (v : Byte) (s : State) : (setP v s).a = s.a := rfl
@[simp] theorem setP_x (v : Byte) (s : State) : (setP v s).x = s.x := rfl
@[simp] theorem setP_y (v : Byte) (s : State) : (setP v s).y = s.y := rfl
@[simp] theorem setP_p (v : Byte) (s : State) : (setP v s).p = v := rfl
@[simp] theorem setP_run (v : Byte) (s : State) : (setP v s).run = s.run := rfl
@[simp] theorem setP_cycles (v : Byte) (s : State) : (setP v s).cycles = s.cycles := rfl
@[simp] theorem setP_pending (v : Byte) (s : State) : (setP v s).pending = s.pending := rfl
@[simp] theorem setP_mem (v : Byte) (s : State) : (setP v s).mem = s.mem := rfl
@[simp] theorem setP_routes (v : Byte) (s : State) : (setP v s).routes = s.routes := rfl
@[simp] theorem setP_devices (v : Byte) (s : State) : (setP v s).devices = s.devices := rfl
@[simp] theorem setP_busLog (v : Byte) (s : State) : (setP v s).busLog = s.busLog := rfl
@[simp] theorem setP_busCalls (v : Byte) (s : State) : (setP v s).busCalls = s.busCalls := rfl
@[simp] theorem setP_params (v : Byte) (s : State) : (setP v s).params = s.params := rfl

/-! `setPc` -/

@[simp] theorem setPc_pc (v : Word) (s : State) : (setPc v s).pc = v := rfl
@[simp] theorem setPc_pcSet (v : Word) (s : State) : (setPc v s).pcSet = true := rfl
@[simp] theorem setPc_sp (v : Word) (s : State) : (setPc v s).sp = s.sp := rfl
@[simp] theorem setPc_a (v : Word) (s : State) : (setPc v s).a = s.a := rfl
@[simp] theorem setPc_x (v : Word) (s : State) : (setPc v s).x = s.x := rfl
@[simp] theorem setPc_y (v : Word) (s : State) : (setPc v s).y = s.y := rfl
@[simp] theorem setPc_p (v : Word) (s : State) : (setPc v s).p = s.p := rfl
@[simp] theorem setPc_run (v : Word) (s : State) : (setPc v s).run = s.run := rfl
@[simp] theorem setPc_cycles (v : Word) (s : State) : (setPc v s).cycles = s.cycles := rfl
@[simp] theorem setPc_pending (v : Word) (s : State) : (setPc v s).pending = s.pending := rfl
@[simp] theorem setPc_mem (v : Word) (s : State) : (setPc v s).mem = s.mem := rfl
@[simp] theorem setPc_routes (v : Word) (s : State) : (setPc v s).routes = s.routes := rfl
@[simp] theorem setPc_devices (v : Word) (s : State) : (setPc v s).devices = s.devices := rfl
@[simp] theorem setPc_busLog (v : Word) (s : State) : (setPc v s).busLog = s.busLog := rfl
@[simp] theorem setPc_busCalls (v : Word) (s : State) : (setPc v s).busCalls = s.busCalls := rfl
@[simp] theorem setPc_params (v : Word) (s : State) : (setPc v s).params = s.params := rfl

/-! `advancePc` -/

@[simp] theorem advancePc_pc (n : Word) (s : State) : (advancePc n s).pc = s.pc + n := rfl
@[simp] theorem advancePc_pcSet (n : Word) (s : State) : (advancePc n s).pcSet = s.pcSet := rfl
@[simp] theorem advancePc_sp (n : Word) (s : State) : (advancePc n s).sp = s.sp := rfl
@[simp] theorem advancePc_a (n : Word) (s : State) : (advancePc n s).a = s.a := rfl
@[simp] theorem advancePc_x (n : Word) (s : State) : (advancePc n s).x = s.x := rfl
@[simp] theorem advancePc_y (n : Word) (s : State) : (advancePc n s).y = s.y := rfl
@[simp] theorem advancePc_p (n : Word) (s : State) : (advancePc n s).p = s.p := rfl
@[simp] theorem advancePc_run (n : Word) (s : State) : (advancePc n s).run = s.run := rfl
@[simp] theorem advancePc_cycles (n : Word) (s : State) : (advancePc n s).cycles = s.cycles := rfl
@[simp] theorem advancePc_pending (n : Word) (s : State) :
    (advancePc n s).pending = s.pending := rfl
@[simp] theorem advancePc_mem (n : Word) (s : State) : (advancePc n s).mem = s.mem := rfl
@[simp] theorem advancePc_routes (n : Word) (s : State) :
    (advancePc n s).routes = s.routes := rfl
@[simp] theorem advancePc_devices (n : Word) (s : State) :
    (advancePc n s).devices = s.devices := rfl
@[simp] theorem advancePc_busLog (n : Word) (s : State) : (advancePc n s).busLog = s.busLog := rfl
@[simp] theorem advancePc_busCalls (n : Word) (s : State) :
    (advancePc n s).busCalls = s.busCalls := rfl
@[simp] theorem advancePc_params (n : Word) (s : State) : (advancePc n s).params = s.params := rfl

/-! `addCycles` -/

@[simp] theorem addCycles_pc (n : Nat) (s : State) : (addCycles n s).pc = s.pc := rfl
@[simp] theorem addCycles_pcSet (n : Nat) (s : State) : (addCycles n s).pcSet = s.pcSet := rfl
@[simp] theorem addCycles_sp (n : Nat) (s : State) : (addCycles n s).sp = s.sp := rfl
@[simp] theorem addCycles_a (n : Nat) (s : State) : (addCycles n s).a = s.a := rfl
@[simp] theorem addCycles_x (n : Nat) (s : State) : (addCycles n s).x = s.x := rfl
@[simp] theorem addCycles_y (n : Nat) (s : State) : (addCycles n s).y = s.y := rfl
@[simp] theorem addCycles_p (n : Nat) (s : State) : (addCycles n s).p = s.p := rfl
@[simp] theorem addCycles_run (n : Nat) (s : State) : (addCycles n s).run = s.run := rfl
@[simp] theorem addCycles_cycles (n : Nat) (s : State) :
    (addCycles n s).cycles = s.cycles + n := rfl
@[simp] theorem addCycles_pending (n : Nat) (s : State) : (addCycles n s).pending = s.pending := rfl
@[simp] theorem addCycles_mem (n : Nat) (s : State) : (addCycles n s).mem = s.mem := rfl
@[simp] theorem addCycles_routes (n : Nat) (s : State) : (addCycles n s).routes = s.routes := rfl
@[simp] theorem addCycles_devices (n : Nat) (s : State) : (addCycles n s).devices = s.devices := rfl
@[simp] theorem addCycles_busLog (n : Nat) (s : State) : (addCycles n s).busLog = s.busLog := rfl
@[simp] theorem addCycles_busCalls (n : Nat) (s : State) :
    (addCycles n s).busCalls = s.busCalls := rfl
@[simp] theorem addCycles_params (n : Nat) (s : State) : (addCycles n s).params = s.params := rfl

/-! `setFlag` -/

@[simp] theorem setFlag_pc (f : Flag) (v : Bool) (s : State) : (setFlag f v s).pc = s.pc := rfl
@[simp] theorem setFlag_pcSet (f : Flag) (v : Bool) (s : State) :
    (setFlag f v s).pcSet = s.pcSet := rfl
@[simp] theorem setFlag_sp (f : Flag) (v : Bool) (s : State) : (setFlag f v s).sp = s.sp := rfl
@[simp] theorem setFlag_a (f : Flag) (v : Bool) (s : State) : (setFlag f v s).a = s.a := rfl
@[simp] theorem setFlag_x (f : Flag) (v : Bool) (s : State) : (setFlag f v s).x = s.x := rfl
@[simp] theorem setFlag_y (f : Flag) (v : Bool) (s : State) : (setFlag f v s).y = s.y := rfl
@[simp] theorem setFlag_p (f : Flag) (v : Bool) (s : State) :
    (setFlag f v s).p = putFlag f v s.p := rfl
@[simp] theorem setFlag_run (f : Flag) (v : Bool) (s : State) : (setFlag f v s).run = s.run := rfl
@[simp] theorem setFlag_cycles (f : Flag) (v : Bool) (s : State) :
    (setFlag f v s).cycles = s.cycles := rfl
@[simp] theorem setFlag_pending (f : Flag) (v : Bool) (s : State) :
    (setFlag f v s).pending = s.pending := rfl
@[simp] theorem setFlag_mem (f : Flag) (v : Bool) (s : State) : (setFlag f v s).mem = s.mem := rfl
@[simp] theorem setFlag_routes (f : Flag) (v : Bool) (s : State) :
    (setFlag f v s).routes = s.routes := rfl
@[simp] theorem setFlag_devices (f : Flag) (v : Bool) (s : State) :
    (setFlag f v s).devices = s.devices := rfl
@[simp] theorem setFlag_busLog (f : Flag) (v : Bool) (s : State) :
    (setFlag f v s).busLog = s.busLog := rfl
@[simp] theorem setFlag_busCalls (f : Flag) (v : Bool) (s : State) :
    (setFlag f v s).busCalls = s.busCalls := rfl
@[simp] theorem setFlag_params (f : Flag) (v : Bool) (s : State) :
    (setFlag f v s).params = s.params := rfl

/-! `clearLine` -/

@[simp] theorem clearLine_pc (k : Line) (s : State) : (clearLine k s).pc = s.pc := rfl
@[simp] theorem clearLine_pcSet (k : Line) (s : State) : (clearLine k s).pcSet = s.pcSet := rfl
@[simp] theorem clearLine_sp (k : Line) (s : State) : (clearLine k s).sp = s.sp := rfl
@[simp] theorem clearLine_a (k : Line) (s : State) : (clearLine k s).a = s.a := rfl
@[simp] theorem clearLine_x (k : Line) (s : State) : (clearLine k s).x = s.x := rfl
@[simp] theorem clearLine_y (k : Line) (s : State) : (clearLine k s).y = s.y := rfl
@[simp] theorem clearLine_p (k : Line) (s : State) : (clearLine k s).p = s.p := rfl
@[simp] theorem clearLine_run (k : Line) (s : State) : (clearLine k s).run = s.run := rfl
@[simp] theorem clearLine_cycles (k : Line) (s : State) : (clearLine k s).cycles = s.cycles := rfl
@[simp] theorem clearLine_pending (k : Line) (s : State) :
    (clearLine k s).pending = s.pending.service k := rfl
@[simp] theorem clearLine_mem (k : Line) (s : State) : (clearLine k s).mem = s.mem := rfl
@[simp] theorem clearLine_routes (k : Line) (s : State) :
    (clearLine k s).routes = s.routes := rfl
@[simp] theorem clearLine_devices (k : Line) (s : State) :
    (clearLine k s).devices = s.devices := rfl
@[simp] theorem clearLine_busLog (k : Line) (s : State) : (clearLine k s).busLog = s.busLog := rfl
@[simp] theorem clearLine_busCalls (k : Line) (s : State) :
    (clearLine k s).busCalls = s.busCalls := rfl
@[simp] theorem clearLine_params (k : Line) (s : State) : (clearLine k s).params = s.params := rfl

/-! `halt` -/

@[simp] theorem halt_pc (s : State) : (halt s).pc = s.pc := rfl
@[simp] theorem halt_pcSet (s : State) : (halt s).pcSet = s.pcSet := rfl
@[simp] theorem halt_sp (s : State) : (halt s).sp = s.sp := rfl
@[simp] theorem halt_a (s : State) : (halt s).a = s.a := rfl
@[simp] theorem halt_x (s : State) : (halt s).x = s.x := rfl
@[simp] theorem halt_y (s : State) : (halt s).y = s.y := rfl
@[simp] theorem halt_p (s : State) : (halt s).p = s.p := rfl
@[simp] theorem halt_run (s : State) : (halt s).run = .halted := rfl
@[simp] theorem halt_cycles (s : State) : (halt s).cycles = s.cycles := rfl
@[simp] theorem halt_pending (s : State) : (halt s).pending = s.pending := rfl
@[simp] theorem halt_mem (s : State) : (halt s).mem = s.mem := rfl
@[simp] theorem halt_routes (s : State) : (halt s).routes = s.routes := rfl
@[simp] theorem halt_devices (s : State) : (halt s).devices = s.devices := rfl
@[simp] theorem halt_busLog (s : State) : (halt s).busLog = s.busLog := rfl
@[simp] theorem halt_busCalls (s : State) : (halt s).busCalls = s.busCalls := rfl
@[simp] theorem halt_params (s : State) : (halt s).params = s.params := rfl

end Sys2Proof.Machine
end

