-- ==== Sys2Proof/Laws/Ops.lean ====
section
/-! SUPPORT. What the bus, stack, fetch and latch operations do, each once: one lemma for each field, and
what they leave of the memory. -/

namespace Sys2Proof.Machine

/-! ### Reads as pairs -/

@[simp] theorem memRead_fst (a : Word) (s : State) : (memRead a s).1 = readByte a s := rfl
@[simp] theorem memRead_snd (a : Word) (s : State) : (memRead a s).2 = afterRead a s := rfl
@[simp] theorem fetchByte_fst (s : State) : (fetchByte s).1 = readByte s.pc s := rfl
@[simp] theorem pull_fst (s : State) : (pull s).1 = readByte (stackAddr (s.sp + 1)) s := rfl

/-! ### `afterRead` -/

@[simp] theorem afterRead_pc (a : Word) (s : State) : (afterRead a s).pc = s.pc := rfl
@[simp] theorem afterRead_pcSet (a : Word) (s : State) : (afterRead a s).pcSet = s.pcSet := rfl
@[simp] theorem afterRead_sp (a : Word) (s : State) : (afterRead a s).sp = s.sp := rfl
@[simp] theorem afterRead_a (a : Word) (s : State) : (afterRead a s).a = s.a := rfl
@[simp] theorem afterRead_x (a : Word) (s : State) : (afterRead a s).x = s.x := rfl
@[simp] theorem afterRead_y (a : Word) (s : State) : (afterRead a s).y = s.y := rfl
@[simp] theorem afterRead_p (a : Word) (s : State) : (afterRead a s).p = s.p := rfl
@[simp] theorem afterRead_run (a : Word) (s : State) : (afterRead a s).run = s.run := rfl
@[simp] theorem afterRead_cycles (a : Word) (s : State) : (afterRead a s).cycles = s.cycles := rfl
@[simp] theorem afterRead_pending (a : Word) (s : State) :
    (afterRead a s).pending = pendingAfter (.read a) s := rfl
@[simp] theorem afterRead_mem (a : Word) (s : State) : (afterRead a s).mem = s.mem := rfl
@[simp] theorem afterRead_routes (a : Word) (s : State) :
    (afterRead a s).routes = s.routes := rfl
@[simp] theorem afterRead_devices (a : Word) (s : State) :
    (afterRead a s).devices = devicesAfter (.read a) s := rfl
@[simp] theorem afterRead_busLog (a : Word) (s : State) :
    (afterRead a s).busLog = .read a :: s.busLog := rfl
@[simp] theorem afterRead_busCalls (a : Word) (s : State) :
    (afterRead a s).busCalls = s.busCalls + 1 := rfl
@[simp] theorem afterRead_params (a : Word) (s : State) : (afterRead a s).params = s.params := rfl

/-! ### `memWrite` -/

@[simp] theorem memWrite_pc (a : Word) (v : Byte) (s : State) : (memWrite a v s).pc = s.pc := rfl
@[simp] theorem memWrite_pcSet (a : Word) (v : Byte) (s : State) :
    (memWrite a v s).pcSet = s.pcSet := rfl
@[simp] theorem memWrite_sp (a : Word) (v : Byte) (s : State) : (memWrite a v s).sp = s.sp := rfl
@[simp] theorem memWrite_a (a : Word) (v : Byte) (s : State) : (memWrite a v s).a = s.a := rfl
@[simp] theorem memWrite_x (a : Word) (v : Byte) (s : State) : (memWrite a v s).x = s.x := rfl
@[simp] theorem memWrite_y (a : Word) (v : Byte) (s : State) : (memWrite a v s).y = s.y := rfl
@[simp] theorem memWrite_p (a : Word) (v : Byte) (s : State) : (memWrite a v s).p = s.p := rfl
@[simp] theorem memWrite_run (a : Word) (v : Byte) (s : State) : (memWrite a v s).run = s.run := rfl
@[simp] theorem memWrite_cycles (a : Word) (v : Byte) (s : State) :
    (memWrite a v s).cycles = s.cycles := rfl
@[simp] theorem memWrite_pending (a : Word) (v : Byte) (s : State) :
    (memWrite a v s).pending = pendingAfter (.write a v) s := rfl
@[simp] theorem memWrite_mem (a : Word) (v : Byte) (s : State) :
    (memWrite a v s).mem = memAfterWrite a v s := rfl
@[simp] theorem memWrite_routes (a : Word) (v : Byte) (s : State) :
    (memWrite a v s).routes = s.routes := rfl
@[simp] theorem memWrite_devices (a : Word) (v : Byte) (s : State) :
    (memWrite a v s).devices = devicesAfter (.write a v) s := rfl
@[simp] theorem memWrite_busLog (a : Word) (v : Byte) (s : State) :
    (memWrite a v s).busLog = .write a v :: s.busLog := rfl
@[simp] theorem memWrite_busCalls (a : Word) (v : Byte) (s : State) :
    (memWrite a v s).busCalls = s.busCalls + 1 := rfl
@[simp] theorem memWrite_params (a : Word) (v : Byte) (s : State) :
    (memWrite a v s).params = s.params := rfl

/-! ### `push` -/

@[simp] theorem push_pc (v : Byte) (s : State) : (push v s).pc = s.pc := rfl
@[simp] theorem push_pcSet (v : Byte) (s : State) : (push v s).pcSet = s.pcSet := rfl
@[simp] theorem push_sp (v : Byte) (s : State) : (push v s).sp = s.sp - 1 := rfl
@[simp] theorem push_a (v : Byte) (s : State) : (push v s).a = s.a := rfl
@[simp] theorem push_x (v : Byte) (s : State) : (push v s).x = s.x := rfl
@[simp] theorem push_y (v : Byte) (s : State) : (push v s).y = s.y := rfl
@[simp] theorem push_p (v : Byte) (s : State) : (push v s).p = s.p := rfl
@[simp] theorem push_run (v : Byte) (s : State) : (push v s).run = s.run := rfl
@[simp] theorem push_cycles (v : Byte) (s : State) : (push v s).cycles = s.cycles := rfl
@[simp] theorem push_pending (v : Byte) (s : State) :
    (push v s).pending = pendingAfter (.write (stackAddr s.sp) v) s := rfl
@[simp] theorem push_mem (v : Byte) (s : State) :
    (push v s).mem = memAfterWrite (stackAddr s.sp) v s := rfl
@[simp] theorem push_routes (v : Byte) (s : State) : (push v s).routes = s.routes := rfl
@[simp] theorem push_devices (v : Byte) (s : State) :
    (push v s).devices = devicesAfter (.write (stackAddr s.sp) v) s := rfl
@[simp] theorem push_busLog (v : Byte) (s : State) :
    (push v s).busLog = .write (stackAddr s.sp) v :: s.busLog := rfl
@[simp] theorem push_busCalls (v : Byte) (s : State) : (push v s).busCalls = s.busCalls + 1 := rfl
@[simp] theorem push_params (v : Byte) (s : State) : (push v s).params = s.params := rfl

/-! ### `pull` -/

@[simp] theorem pull_pc (s : State) : ((pull s).2).pc = s.pc := rfl
@[simp] theorem pull_pcSet (s : State) : ((pull s).2).pcSet = s.pcSet := rfl
@[simp] theorem pull_sp (s : State) : ((pull s).2).sp = s.sp + 1 := rfl
@[simp] theorem pull_a (s : State) : ((pull s).2).a = s.a := rfl
@[simp] theorem pull_x (s : State) : ((pull s).2).x = s.x := rfl
@[simp] theorem pull_y (s : State) : ((pull s).2).y = s.y := rfl
@[simp] theorem pull_p (s : State) : ((pull s).2).p = s.p := rfl
@[simp] theorem pull_run (s : State) : ((pull s).2).run = s.run := rfl
@[simp] theorem pull_cycles (s : State) : ((pull s).2).cycles = s.cycles := rfl
@[simp] theorem pull_pending (s : State) :
    ((pull s).2).pending = pendingAfter (.read (stackAddr (s.sp + 1))) s := rfl
@[simp] theorem pull_mem (s : State) : ((pull s).2).mem = s.mem := rfl
@[simp] theorem pull_routes (s : State) : ((pull s).2).routes = s.routes := rfl
@[simp] theorem pull_devices (s : State) :
    ((pull s).2).devices = devicesAfter (.read (stackAddr (s.sp + 1))) s := rfl
@[simp] theorem pull_busLog (s : State) :
    ((pull s).2).busLog = .read (stackAddr (s.sp + 1)) :: s.busLog := rfl
@[simp] theorem pull_busCalls (s : State) : ((pull s).2).busCalls = s.busCalls + 1 := rfl
@[simp] theorem pull_params (s : State) : ((pull s).2).params = s.params := rfl

/-! ### `fetchByte` -/

@[simp] theorem fetchByte_pc (s : State) : ((fetchByte s).2).pc = s.pc + 1 := rfl
@[simp] theorem fetchByte_pcSet (s : State) : ((fetchByte s).2).pcSet = s.pcSet := rfl
@[simp] theorem fetchByte_sp (s : State) : ((fetchByte s).2).sp = s.sp := rfl
@[simp] theorem fetchByte_a (s : State) : ((fetchByte s).2).a = s.a := rfl
@[simp] theorem fetchByte_x (s : State) : ((fetchByte s).2).x = s.x := rfl
@[simp] theorem fetchByte_y (s : State) : ((fetchByte s).2).y = s.y := rfl
@[simp] theorem fetchByte_p (s : State) : ((fetchByte s).2).p = s.p := rfl
@[simp] theorem fetchByte_run (s : State) : ((fetchByte s).2).run = s.run := rfl
@[simp] theorem fetchByte_cycles (s : State) : ((fetchByte s).2).cycles = s.cycles := rfl
@[simp] theorem fetchByte_pending (s : State) :
    ((fetchByte s).2).pending = pendingAfter (.read s.pc) s := rfl
@[simp] theorem fetchByte_mem (s : State) : ((fetchByte s).2).mem = s.mem := rfl
@[simp] theorem fetchByte_routes (s : State) : ((fetchByte s).2).routes = s.routes := rfl
@[simp] theorem fetchByte_devices (s : State) :
    ((fetchByte s).2).devices = devicesAfter (.read s.pc) s := rfl
@[simp] theorem fetchByte_busLog (s : State) :
    ((fetchByte s).2).busLog = .read s.pc :: s.busLog := rfl
@[simp] theorem fetchByte_busCalls (s : State) : ((fetchByte s).2).busCalls = s.busCalls + 1 := rfl
@[simp] theorem fetchByte_params (s : State) : ((fetchByte s).2).params = s.params := rfl

/-! ### `memRead16` -/

@[simp] theorem memRead16_pc (a : Word) (s : State) : ((memRead16 a s).2).pc = s.pc := rfl
@[simp] theorem memRead16_pcSet (a : Word) (s : State) : ((memRead16 a s).2).pcSet = s.pcSet := rfl
@[simp] theorem memRead16_sp (a : Word) (s : State) : ((memRead16 a s).2).sp = s.sp := rfl
@[simp] theorem memRead16_a (a : Word) (s : State) : ((memRead16 a s).2).a = s.a := rfl
@[simp] theorem memRead16_x (a : Word) (s : State) : ((memRead16 a s).2).x = s.x := rfl
@[simp] theorem memRead16_y (a : Word) (s : State) : ((memRead16 a s).2).y = s.y := rfl
@[simp] theorem memRead16_p (a : Word) (s : State) : ((memRead16 a s).2).p = s.p := rfl
@[simp] theorem memRead16_run (a : Word) (s : State) : ((memRead16 a s).2).run = s.run := rfl
@[simp] theorem memRead16_cycles (a : Word) (s : State) :
    ((memRead16 a s).2).cycles = s.cycles := rfl
@[simp] theorem memRead16_mem (a : Word) (s : State) : ((memRead16 a s).2).mem = s.mem := rfl
@[simp] theorem memRead16_routes (a : Word) (s : State) :
    ((memRead16 a s).2).routes = s.routes := rfl
@[simp] theorem memRead16_busLog (a : Word) (s : State) :
    ((memRead16 a s).2).busLog = .read (a + 1) :: .read a :: s.busLog := rfl
@[simp] theorem memRead16_busCalls (a : Word) (s : State) :
    ((memRead16 a s).2).busCalls = s.busCalls + 2 := rfl
@[simp] theorem memRead16_params (a : Word) (s : State) :
    ((memRead16 a s).2).params = s.params := rfl

/-! ### `memRead16Zpg` -/

@[simp] theorem memRead16Zpg_pc (a : Word) (s : State) : ((memRead16Zpg a s).2).pc = s.pc := rfl
@[simp] theorem memRead16Zpg_pcSet (a : Word) (s : State) :
    ((memRead16Zpg a s).2).pcSet = s.pcSet := rfl
@[simp] theorem memRead16Zpg_sp (a : Word) (s : State) : ((memRead16Zpg a s).2).sp = s.sp := rfl
@[simp] theorem memRead16Zpg_a (a : Word) (s : State) : ((memRead16Zpg a s).2).a = s.a := rfl
@[simp] theorem memRead16Zpg_x (a : Word) (s : State) : ((memRead16Zpg a s).2).x = s.x := rfl
@[simp] theorem memRead16Zpg_y (a : Word) (s : State) : ((memRead16Zpg a s).2).y = s.y := rfl
@[simp] theorem memRead16Zpg_p (a : Word) (s : State) : ((memRead16Zpg a s).2).p = s.p := rfl
@[simp] theorem memRead16Zpg_run (a : Word) (s : State) : ((memRead16Zpg a s).2).run = s.run := rfl
@[simp] theorem memRead16Zpg_cycles (a : Word) (s : State) :
    ((memRead16Zpg a s).2).cycles = s.cycles := rfl
@[simp] theorem memRead16Zpg_mem (a : Word) (s : State) : ((memRead16Zpg a s).2).mem = s.mem := rfl
@[simp] theorem memRead16Zpg_routes (a : Word) (s : State) :
    ((memRead16Zpg a s).2).routes = s.routes := rfl
@[simp] theorem memRead16Zpg_busLog (a : Word) (s : State) :
    ((memRead16Zpg a s).2).busLog = .read (nextInPage a) :: .read a :: s.busLog := rfl
@[simp] theorem memRead16Zpg_busCalls (a : Word) (s : State) :
    ((memRead16Zpg a s).2).busCalls = s.busCalls + 2 := rfl
@[simp] theorem memRead16Zpg_params (a : Word) (s : State) :
    ((memRead16Zpg a s).2).params = s.params := rfl

/-! ### `pull16` -/

@[simp] theorem pull16_pc (s : State) : ((pull16 s).2).pc = s.pc := rfl
@[simp] theorem pull16_pcSet (s : State) : ((pull16 s).2).pcSet = s.pcSet := rfl
@[simp] theorem pull16_sp (s : State) : ((pull16 s).2).sp = s.sp + 1 + 1 := rfl
@[simp] theorem pull16_a (s : State) : ((pull16 s).2).a = s.a := rfl
@[simp] theorem pull16_x (s : State) : ((pull16 s).2).x = s.x := rfl
@[simp] theorem pull16_y (s : State) : ((pull16 s).2).y = s.y := rfl
@[simp] theorem pull16_p (s : State) : ((pull16 s).2).p = s.p := rfl
@[simp] theorem pull16_run (s : State) : ((pull16 s).2).run = s.run := rfl
@[simp] theorem pull16_cycles (s : State) : ((pull16 s).2).cycles = s.cycles := rfl
@[simp] theorem pull16_mem (s : State) : ((pull16 s).2).mem = s.mem := rfl
@[simp] theorem pull16_routes (s : State) : ((pull16 s).2).routes = s.routes := rfl
@[simp] theorem pull16_busLog (s : State) :
    ((pull16 s).2).busLog = .read (stackAddr (s.sp + 1 + 1)) :: .read (stackAddr (s.sp + 1)) :: s.busLog := rfl
@[simp] theorem pull16_busCalls (s : State) : ((pull16 s).2).busCalls = s.busCalls + 2 := rfl
@[simp] theorem pull16_params (s : State) : ((pull16 s).2).params = s.params := rfl

/-! ### `push16` -/

@[simp] theorem push16_pc (w : Word) (s : State) : (push16 w s).pc = s.pc := by
  simp only [push16, push_pc]
@[simp] theorem push16_pcSet (w : Word) (s : State) : (push16 w s).pcSet = s.pcSet := by
  simp only [push16, push_pcSet]
@[simp] theorem push16_sp (w : Word) (s : State) : (push16 w s).sp = s.sp - 1 - 1 := by
  simp only [push16, push_sp]
@[simp] theorem push16_a (w : Word) (s : State) : (push16 w s).a = s.a := by
  simp only [push16, push_a]
@[simp] theorem push16_x (w : Word) (s : State) : (push16 w s).x = s.x := by
  simp only [push16, push_x]
@[simp] theorem push16_y (w : Word) (s : State) : (push16 w s).y = s.y := by
  simp only [push16, push_y]
@[simp] theorem push16_p (w : Word) (s : State) : (push16 w s).p = s.p := by
  simp only [push16, push_p]
@[simp] theorem push16_run (w : Word) (s : State) : (push16 w s).run = s.run := by
  simp only [push16, push_run]
@[simp] theorem push16_cycles (w : Word) (s : State) : (push16 w s).cycles = s.cycles := by
  simp only [push16, push_cycles]
@[simp] theorem push16_routes (w : Word) (s : State) : (push16 w s).routes = s.routes := by
  simp only [push16, push_routes]
@[simp] theorem push16_busLog (w : Word) (s : State) :
    (push16 w s).busLog = .write (stackAddr (s.sp - 1)) (lo8 w) :: .write (stackAddr s.sp) (hi8 w) :: s.busLog := by
  simp only [push16, push_busLog, push_sp]
@[simp] theorem push16_busCalls (w : Word) (s : State) :
    (push16 w s).busCalls = s.busCalls + 2 := by
  simp only [push16, push_busCalls]
@[simp] theorem push16_params (w : Word) (s : State) : (push16 w s).params = s.params := by
  simp only [push16, push_params]

/-! ### `fetchWord` -/

@[simp] theorem fetchWord_pc (s : State) : ((fetchWord s).2).pc = s.pc + 2 := rfl
@[simp] theorem fetchWord_pcSet (s : State) : ((fetchWord s).2).pcSet = s.pcSet := rfl
@[simp] theorem fetchWord_sp (s : State) : ((fetchWord s).2).sp = s.sp := rfl
@[simp] theorem fetchWord_a (s : State) : ((fetchWord s).2).a = s.a := rfl
@[simp] theorem fetchWord_x (s : State) : ((fetchWord s).2).x = s.x := rfl
@[simp] theorem fetchWord_y (s : State) : ((fetchWord s).2).y = s.y := rfl
@[simp] theorem fetchWord_p (s : State) : ((fetchWord s).2).p = s.p := rfl
@[simp] theorem fetchWord_run (s : State) : ((fetchWord s).2).run = s.run := rfl
@[simp] theorem fetchWord_cycles (s : State) : ((fetchWord s).2).cycles = s.cycles := rfl
@[simp] theorem fetchWord_mem (s : State) : ((fetchWord s).2).mem = s.mem := rfl
@[simp] theorem fetchWord_routes (s : State) : ((fetchWord s).2).routes = s.routes := rfl
@[simp] theorem fetchWord_busLog (s : State) :
    ((fetchWord s).2).busLog = .read (s.pc + 1) :: .read s.pc :: s.busLog := rfl
@[simp] theorem fetchWord_busCalls (s : State) : ((fetchWord s).2).busCalls = s.busCalls + 2 := rfl
@[simp] theorem fetchWord_params (s : State) : ((fetchWord s).2).params = s.params := rfl

/-! ### Where an access leads -/

/-- The routes alone decide where an access leads. -/
theorem placeOf_congr {s t : State} (h : t.routes = s.routes) (b : Word) :
    placeOf t b = placeOf s b := by simp only [placeOf, h]

theorem isDevice_congr {s t : State} (h : t.routes = s.routes) (b : Word) :
    isDevice t b = isDevice s b := by simp only [isDevice, placeOf_congr h]

theorem sharesCell_congr {s t : State} (h : t.routes = s.routes) (a b : Word) :
    sharesCell t a b = sharesCell s a b := by simp only [sharesCell, placeOf_congr h]

@[simp] theorem sharesCell_memWrite (c a b : Word) (v : Byte) (s : State) :
    sharesCell (memWrite c v s) a b = sharesCell s a b := rfl

@[simp] theorem isDevice_afterRead (a b : Word) (s : State) :
    isDevice (afterRead a s) b = isDevice s b := rfl

@[simp] theorem isDevice_memWrite (a b : Word) (v : Byte) (s : State) :
    isDevice (memWrite a v s) b = isDevice s b := rfl

@[simp] theorem isDevice_advancePc (n b : Word) (s : State) :
    isDevice (advancePc n s) b = isDevice s b := rfl

@[simp] theorem placeOf_afterRead (a b : Word) (s : State) :
    placeOf (afterRead a s) b = placeOf s b := rfl

@[simp] theorem placeOf_memWrite (a b : Word) (v : Byte) (s : State) :
    placeOf (memWrite a v s) b = placeOf s b := rfl

@[simp] theorem placeOf_setSp (v : Byte) (b : Word) (s : State) :
    placeOf (setSp v s) b = placeOf s b := rfl

@[simp] theorem placeOf_push (v : Byte) (b : Word) (s : State) :
    placeOf (push v s) b = placeOf s b := rfl

/-- An address that leads to a cell is no device's. -/
theorem isDevice_of_cell {s : State} {a n : Word} {w : Bool} (h : placeOf s a = .cell n w) :
    isDevice s a = false := by rw [isDevice, h]; rfl

theorem isDevice_eq_true {s : State} {a : Word} : isDevice s a = true ↔ placeOf s a = .device := by
  simp [isDevice]

/-- An address with a described byte is no device's. -/
theorem isDevice_of_peek {s : State} {a : Word} {v : Byte} (h : peek s a = some v) :
    isDevice s a = false := by
  cases hp : placeOf s a with
  | cell n w => exact isDevice_of_cell hp
  | device => simp [peek, hp] at h

/-- Without routes every address is its own writable cell. -/
theorem placeOf_of_no_routes {s : State} (h : s.routes = []) (a : Word) :
    placeOf s a = .cell a true := by simp [placeOf, h]

/-! ### What a call leaves of the devices and the latch -/

theorem devicesAfter_of_not_device {c : BusCall} {s : State} (h : isDevice s c.addr = false) :
    devicesAfter c s = s.devices := by simp [devicesAfter, h]

theorem pendingAfter_of_not_device {c : BusCall} {s : State} (h : isDevice s c.addr = false) :
    pendingAfter c s = s.pending := by simp [pendingAfter, h]

/-- A read that reaches no device leaves its traces on the record alone. -/
theorem afterRead_of_not_device {a : Word} {s : State} (h : isDevice s a = false) :
    afterRead a s = { s with busLog := .read a :: s.busLog, busCalls := s.busCalls + 1 } := by
  simp only [afterRead, noteCall, devicesAfter_of_not_device (c := .read a) h,
    pendingAfter_of_not_device (c := .read a) h]

/-- A read that reaches the devices (R60): their state moves and the lines they assert are latched. -/
theorem afterRead_of_device {a : Word} {s : State} (h : placeOf s a = .device) :
    afterRead a s = { s with
      devices := (Config.bus.read s.devices a).2.1
      pending := s.pending.addAll (Config.bus.read s.devices a).2.2
      busLog := .read a :: s.busLog, busCalls := s.busCalls + 1 } := by
  simp [afterRead, noteCall, devicesAfter, pendingAfter, BusCall.addr, BusCall.act,
    isDevice_eq_true.2 h]

/-- A write that reaches the devices (R60): the same, and no memory cell changes. -/
theorem memWrite_of_device {a : Word} {s : State} (v : Byte) (h : placeOf s a = .device) :
    memWrite a v s = { s with
      devices := (Config.bus.write s.devices a v).1
      pending := s.pending.addAll (Config.bus.write s.devices a v).2
      busLog := .write a v :: s.busLog, busCalls := s.busCalls + 1 } := by
  simp [memWrite, memAfterWrite, noteCall, devicesAfter, pendingAfter, BusCall.addr, BusCall.act,
    isDevice_eq_true.2 h, h]

/-! ### What reads and writes leave of the memory -/

@[simp] theorem peek_afterRead (a b : Word) (s : State) : peek (afterRead a s) b = peek s b := rfl

@[simp] theorem peek_setSp (v : Byte) (b : Word) (s : State) : peek (setSp v s) b = peek s b := rfl

/-- A read of a described cell answers its content. -/
theorem readByte_of_peek {a : Word} {s : State} {v : Byte} (h : peek s a = some v) :
    readByte a s = v := by simp [readByte, h]

/-- A read that reaches the devices answers what the bus answers in their state. -/
theorem readByte_of_device {a : Word} {s : State} (h : placeOf s a = .device) :
    readByte a s = (Config.bus.read s.devices a).1 := by simp [readByte, peek, isDevice, h]

/-- What a write leaves at an address: the byte written where both lead to one cell and the write may
change it, else what was there. -/
theorem peek_memWrite (a b : Word) (v : Byte) (s : State) :
    peek (memWrite a v s) b =
      match placeOf s a, placeOf s b with
      | .cell n true, .cell m _ => if m = n then some v else peek s b
      | _, _ => peek s b := by
  cases ha : placeOf s a with
  | device => simp [peek, memAfterWrite, ha]
  | cell n w =>
    cases w with
    | false => simp [peek, memAfterWrite, ha]
    | true =>
      cases hb : placeOf s b with
      | device => simp [peek, hb]
      | cell m w =>
        by_cases hm : m = n
        · subst hm; simp [peek, memAfterWrite, ha, hb]
        · have hne : m.toNat ≠ n.toNat := fun h => hm (BitVec.eq_of_toNat_eq h)
          simp [peek, memAfterWrite, ha, hb, hm, Memory.byteAt_put_ne _ hne]

/-- Two addresses that lead to one memory cell. -/
theorem sharesCell_iff {s : State} {a b : Word} :
    sharesCell s a b = true ↔ ∃ n u w, placeOf s a = .cell n u ∧ placeOf s b = .cell n w := by
  unfold sharesCell
  cases placeOf s a <;> cases placeOf s b <;> simp
  exact eq_comm

theorem peek_memWrite_same {a n : Word} {s : State} (v : Byte) (h : placeOf s a = .cell n true) :
    peek (memWrite a v s) a = some v := by simp [peek_memWrite, h]

/-- A write changes no byte but those of its own cell. -/
theorem peek_memWrite_ne {a b : Word} (v : Byte) (s : State) (h : sharesCell s b a = false) :
    peek (memWrite a v s) b = peek s b := by
  rw [peek_memWrite]
  unfold sharesCell at h
  split
  · rename_i h1 h2; simp_all
  · rfl

/-- Two states with the same described cells and the same routes hold the same bytes. -/
theorem peek_congr {s t : State} (hm : t.mem = s.mem) (hw : t.routes = s.routes) (b : Word) :
    peek t b = peek s b := by simp only [peek, placeOf_congr hw, hm]

theorem memWrite_keeps_wf {s : State} (a : Word) (v : Byte) (h : s.mem.wf) :
    (memWrite a v s).mem.wf := by
  simp only [memWrite_mem, memAfterWrite]
  split
  · rename_i n _; exact Memory.put_wf h (by have := n.isLt; omega)
  · exact h
  · exact h

theorem push_keeps_wf {s : State} (v : Byte) (h : s.mem.wf) : (push v s).mem.wf :=
  memWrite_keeps_wf _ _ h

theorem push16_keeps_wf {s : State} (w : Word) (h : s.mem.wf) : (push16 w s).mem.wf :=
  push_keeps_wf _ (push_keeps_wf _ h)

/-- A push changes no byte but those of its slot's cell. -/
theorem peek_push_ne {b : Word} (v : Byte) (s : State)
    (h : sharesCell s b (stackAddr s.sp) = false) : peek (push v s) b = peek s b :=
  peek_memWrite_ne v s h

theorem peek_push_same {n : Word} {s : State} (v : Byte)
    (h : placeOf s (stackAddr s.sp) = .cell n true) :
    peek (push v s) (stackAddr s.sp) = some v := peek_memWrite_same v h

@[simp] theorem isDevice_push (v : Byte) (s : State) (b : Word) :
    isDevice (push v s) b = isDevice s b := rfl

@[simp] theorem isDevice_push16 (w : Word) (s : State) (b : Word) :
    isDevice (push16 w s) b = isDevice s b := isDevice_congr (push16_routes w s) b

/-! ### Stack addresses -/

theorem stackAddr_toNat (v : Byte) : (stackAddr v).toNat = 256 + v.toNat := by
  have h : stackAddr v = 0x0100#16 + v.setWidth 16 := by
    simp only [stackAddr, zext]; exact stackAddr_or v
  have hv : v.toNat < 256 := v.isLt
  rw [h, BitVec.toNat_add, BitVec.toNat_setWidth]
  simp; omega

theorem stackAddr_inj {u v : Byte} (h : stackAddr u = stackAddr v) : u = v := by
  have h2 := congrArg BitVec.toNat h
  rw [stackAddr_toNat, stackAddr_toNat] at h2
  exact BitVec.eq_of_toNat_eq (by omega)

/-! ### The latch -/

theorem Latch.has_request (l : Latch) (k j : Line) : (l.request k).has j = (l.has j || j == k) := by
  cases k <;> cases j <;> simp [Latch.request, Latch.addAll, Latch.has]

theorem Latch.has_service (l : Latch) (k j : Line) : (l.service k).has j = (l.has j && k != j) := by
  cases k <;> cases j <;> simp [Latch.service, Latch.has]

theorem Latch.has_addAll (l : Latch) (r : Line → Bool) (j : Line) :
    (l.addAll r).has j = (l.has j || r j) := by cases j <;> rfl

/-- A call only adds lines. -/
theorem has_pendingAfter {s : State} {k : Line} (c : BusCall) (h : s.pending.has k = true) :
    (pendingAfter c s).has k = true := by
  unfold pendingAfter
  split
  · simp [Latch.has_addAll, h]
  · exact h

end Sys2Proof.Machine
end

