-- ==== Sys2Proof/Laws/Operands.lean ====
section
/-! SUPPORT. What operand resolution and operand access do, each once: they change nothing but the bus's
record, the count of calls, the devices and the latch, and the latch only grows. -/

namespace Sys2Proof.Machine

/-! ### `resolve` -/

@[simp] theorem resolve_pc (f : Form) (s : State) : (resolve f s).st.pc = s.pc := by
  cases f <;> rfl

@[simp] theorem resolve_pcSet (f : Form) (s : State) : (resolve f s).st.pcSet = s.pcSet := by
  cases f <;> rfl

@[simp] theorem resolve_sp (f : Form) (s : State) : (resolve f s).st.sp = s.sp := by
  cases f <;> rfl

@[simp] theorem resolve_a (f : Form) (s : State) : (resolve f s).st.a = s.a := by
  cases f <;> rfl

@[simp] theorem resolve_x (f : Form) (s : State) : (resolve f s).st.x = s.x := by
  cases f <;> rfl

@[simp] theorem resolve_y (f : Form) (s : State) : (resolve f s).st.y = s.y := by
  cases f <;> rfl

@[simp] theorem resolve_p (f : Form) (s : State) : (resolve f s).st.p = s.p := by
  cases f <;> rfl

@[simp] theorem resolve_run (f : Form) (s : State) : (resolve f s).st.run = s.run := by
  cases f <;> rfl

@[simp] theorem resolve_cycles (f : Form) (s : State) : (resolve f s).st.cycles = s.cycles := by
  cases f <;> rfl

@[simp] theorem resolve_mem (f : Form) (s : State) : (resolve f s).st.mem = s.mem := by
  cases f <;> rfl

@[simp] theorem resolve_routes (f : Form) (s : State) : (resolve f s).st.routes = s.routes := by
  cases f <;> rfl

@[simp] theorem resolve_params (f : Form) (s : State) : (resolve f s).st.params = s.params := by
  cases f <;> rfl

/-! ### `afterOperand` -/

@[simp] theorem afterOperand_pc (t : Target) (s : State) : (afterOperand t s).pc = s.pc := by
  cases t <;> rfl

@[simp] theorem afterOperand_pcSet (t : Target) (s : State) : (afterOperand t s).pcSet = s.pcSet := by
  cases t <;> rfl

@[simp] theorem afterOperand_sp (t : Target) (s : State) : (afterOperand t s).sp = s.sp := by
  cases t <;> rfl

@[simp] theorem afterOperand_a (t : Target) (s : State) : (afterOperand t s).a = s.a := by
  cases t <;> rfl

@[simp] theorem afterOperand_x (t : Target) (s : State) : (afterOperand t s).x = s.x := by
  cases t <;> rfl

@[simp] theorem afterOperand_y (t : Target) (s : State) : (afterOperand t s).y = s.y := by
  cases t <;> rfl

@[simp] theorem afterOperand_p (t : Target) (s : State) : (afterOperand t s).p = s.p := by
  cases t <;> rfl

@[simp] theorem afterOperand_run (t : Target) (s : State) : (afterOperand t s).run = s.run := by
  cases t <;> rfl

@[simp] theorem afterOperand_cycles (t : Target) (s : State) : (afterOperand t s).cycles = s.cycles := by
  cases t <;> rfl

@[simp] theorem afterOperand_mem (t : Target) (s : State) : (afterOperand t s).mem = s.mem := by
  cases t <;> rfl

@[simp] theorem afterOperand_routes (t : Target) (s : State) : (afterOperand t s).routes = s.routes := by
  cases t <;> rfl

@[simp] theorem afterOperand_params (t : Target) (s : State) : (afterOperand t s).params = s.params := by
  cases t <;> rfl

/-! ### `writeOperand` -/

@[simp] theorem writeOperand_pc (t : Target) (v : Byte) (s : State) :
    (writeOperand t v s).pc = s.pc := by
  cases t <;> rfl

@[simp] theorem writeOperand_pcSet (t : Target) (v : Byte) (s : State) :
    (writeOperand t v s).pcSet = s.pcSet := by
  cases t <;> rfl

@[simp] theorem writeOperand_sp (t : Target) (v : Byte) (s : State) :
    (writeOperand t v s).sp = s.sp := by
  cases t <;> rfl

@[simp] theorem writeOperand_x (t : Target) (v : Byte) (s : State) :
    (writeOperand t v s).x = s.x := by
  cases t <;> rfl

@[simp] theorem writeOperand_y (t : Target) (v : Byte) (s : State) :
    (writeOperand t v s).y = s.y := by
  cases t <;> rfl

@[simp] theorem writeOperand_p (t : Target) (v : Byte) (s : State) :
    (writeOperand t v s).p = s.p := by
  cases t <;> rfl

@[simp] theorem writeOperand_run (t : Target) (v : Byte) (s : State) :
    (writeOperand t v s).run = s.run := by
  cases t <;> rfl

@[simp] theorem writeOperand_cycles (t : Target) (v : Byte) (s : State) :
    (writeOperand t v s).cycles = s.cycles := by
  cases t <;> rfl

@[simp] theorem writeOperand_routes (t : Target) (v : Byte) (s : State) :
    (writeOperand t v s).routes = s.routes := by
  cases t <;> rfl

@[simp] theorem writeOperand_params (t : Target) (v : Byte) (s : State) :
    (writeOperand t v s).params = s.params := by
  cases t <;> rfl

theorem writeOperand_keeps_wf {s : State} (t : Target) (v : Byte) (h : s.mem.wf) :
    (writeOperand t v s).mem.wf := by
  cases t <;> first | exact memWrite_keeps_wf _ _ h | exact h

/-! ### Adding cycles commutes with operand access -/

theorem afterOperand_addCycles (t : Target) (n : Nat) (s : State) :
    afterOperand t (addCycles n s) = addCycles n (afterOperand t s) := by cases t <;> rfl

theorem operandByte_addCycles (t : Target) (n : Nat) (s : State) :
    operandByte t (addCycles n s) = operandByte t s := by cases t <;> rfl

/-! ### Memory and latch -/

theorem peek_resolve (f : Form) (s : State) (b : Word) : peek (resolve f s).st b = peek s b :=
  peek_congr (by simp) (by simp) b

theorem peek_afterOperand (t : Target) (s : State) (b : Word) :
    peek (afterOperand t s) b = peek s b := peek_congr (by simp) (by simp) b

theorem has_afterRead {s : State} {k : Line} (a : Word) (h : s.pending.has k = true) :
    (afterRead a s).pending.has k = true := has_pendingAfter _ h

theorem has_memWrite {s : State} {k : Line} (a : Word) (v : Byte) (h : s.pending.has k = true) :
    (memWrite a v s).pending.has k = true := has_pendingAfter _ h

theorem has_push {s : State} {k : Line} (v : Byte) (h : s.pending.has k = true) :
    (push v s).pending.has k = true := has_pendingAfter _ h

theorem has_pull {s : State} {k : Line} (h : s.pending.has k = true) :
    (pull s).2.pending.has k = true := has_pendingAfter _ h

theorem has_push16 {s : State} {k : Line} (w : Word) (h : s.pending.has k = true) :
    (push16 w s).pending.has k = true := has_push _ (has_push _ h)

theorem has_pull16 {s : State} {k : Line} (h : s.pending.has k = true) :
    (pull16 s).2.pending.has k = true := has_pull (has_pull h)

theorem has_resolve {s : State} {k : Line} (f : Form) (h : s.pending.has k = true) :
    (resolve f s).st.pending.has k = true := by
  cases f <;> first
    | exact h
    | exact has_afterRead _ (has_afterRead _ h)

theorem has_afterOperand {s : State} {k : Line} (t : Target) (h : s.pending.has k = true) :
    (afterOperand t s).pending.has k = true := by
  cases t <;> first | exact h | exact has_afterRead _ h

theorem has_writeOperand {s : State} {k : Line} (t : Target) (v : Byte)
    (h : s.pending.has k = true) : (writeOperand t v s).pending.has k = true := by
  cases t <;> first | exact h | exact has_memWrite _ _ h

/-! ### Branches -/

@[simp] theorem branch_sp (c : Bool) (o : Byte) (s : State) : (branch c o s).sp = s.sp := by
  cases c <;> rfl

@[simp] theorem branch_a (c : Bool) (o : Byte) (s : State) : (branch c o s).a = s.a := by
  cases c <;> rfl

@[simp] theorem branch_x (c : Bool) (o : Byte) (s : State) : (branch c o s).x = s.x := by
  cases c <;> rfl

@[simp] theorem branch_y (c : Bool) (o : Byte) (s : State) : (branch c o s).y = s.y := by
  cases c <;> rfl

@[simp] theorem branch_p (c : Bool) (o : Byte) (s : State) : (branch c o s).p = s.p := by
  cases c <;> rfl

@[simp] theorem branch_run (c : Bool) (o : Byte) (s : State) : (branch c o s).run = s.run := by
  cases c <;> rfl

@[simp] theorem branch_mem (c : Bool) (o : Byte) (s : State) : (branch c o s).mem = s.mem := by
  cases c <;> rfl

@[simp] theorem branch_routes (c : Bool) (o : Byte) (s : State) : (branch c o s).routes = s.routes := by
  cases c <;> rfl

@[simp] theorem branch_params (c : Bool) (o : Byte) (s : State) : (branch c o s).params = s.params := by
  cases c <;> rfl

/-- The two ends of a branch (R270). -/
theorem branch_not_taken (o : Byte) (s : State) : branch false o s = s := rfl

theorem branch_taken (o : Byte) (s : State) :
    branch true o s =
      { afterRead (s.pc - 1) s with
        pc := s.pc + sext o, pcSet := true
        cycles := s.cycles + branchCycles s.pc (s.pc + sext o) } := rfl

/-- What a branch charges: nothing if not taken, 1 in the page, 3 across pages (R270). -/
theorem branch_cycles (c : Bool) (o : Byte) (s : State) :
    (branch c o s).cycles =
      s.cycles + if c then (if page s.pc = page (branch c o s).pc then 1 else 3) else 0 := by
  cases c
  · simp [branch]
  · simp only [branch, if_true, setPc_cycles, addCycles_cycles, setPc_pc, afterOperand_cycles,
      resolve_cycles, branchCycles, afterOperand_pc, resolve_pc]
    generalize s.pc + sext _ = dest
    by_cases hp : page s.pc = page dest <;> simp [hp]

end Sys2Proof.Machine
end

