-- ==== Sys2Proof/Laws/Exec.lean ====
section
/-! SUPPORT. `exec` by shape: seven shapes carry all 152 arms, so that a statement about every instruction
is proved by 57 mnemonics over seven shapes (`exec_eq`), not by unfolding each meaning. -/

namespace Sys2Proof.Machine

/-- The operand word of an F3 form (0 for the others, which do not use it). -/
def formWord : Form → Word
  | .abs w | .absX w | .absY w | .ind w => w
  | _ => 0

/-- The operand byte of an F2 form (0 for the others, which do not use it). -/
def formByte : Form → Byte
  | .indY o | .xInd o | .zpg o | .zpgX o | .zpgY o | .rel o | .imm o => o
  | _ => 0

/-- The shapes of the meanings. -/
inductive Kind where
  | read (act : Byte → State → State)
  | store (v : State → Byte)
  | modify (act : Byte → Byte → Byte × Byte)
  | implied (act : State → State)
  | branch (fl : Flag) (want : Bool) (o : Byte)
  | brk
  | undefined

/-- The shape of a mnemonic's meaning with its operand form. -/
def kindOf (f : Form) : Mnemonic → Kind
  | .lda => .read (loadReg setA)
  | .ldx => .read (loadReg setX)
  | .ldy => .read (loadReg setY)
  | .sta => .store State.a
  | .stx => .store State.x
  | .sty => .store State.y
  | .tax => .implied (fun t => loadReg setX t.a t)
  | .tay => .implied (fun t => loadReg setY t.a t)
  | .txa => .implied (fun t => loadReg setA t.x t)
  | .tya => .implied (fun t => loadReg setA t.y t)
  | .tsx => .implied (fun t => loadReg setX t.sp t)
  | .txs => .implied (fun t => setSp t.x t)
  | .pha => .implied (fun t => push t.a t)
  | .pla => .implied pullA
  | .php => .implied (fun t => push t.p t)
  | .plp => .implied pullP
  | .and => .read andA
  | .ora => .read orA
  | .eor => .read eorA
  | .bit => .read bitA
  | .adc => .read adcA
  | .sbc => .read sbcA
  | .cmp => .read (fun m t => cmpReg t.a m t)
  | .cpx => .read (fun m t => cmpReg t.x m t)
  | .cpy => .read (fun m t => cmpReg t.y m t)
  | .inc => .modify inc
  | .dec => .modify dec
  | .inx => .implied (fun t => loadReg setX (t.x + 1) t)
  | .iny => .implied (fun t => loadReg setY (t.y + 1) t)
  | .dex => .implied (fun t => loadReg setX (t.x - 1) t)
  | .dey => .implied (fun t => loadReg setY (t.y - 1) t)
  | .asl => .modify asl
  | .lsr => .modify lsr
  | .rol => .modify rol
  | .ror => .modify ror
  | .jmp => .implied (jumpTo f)
  | .jsr => .implied (callSub (formWord f))
  | .rts => .implied returnSub
  | .rti => .implied returnFromInterrupt
  | .bcc => .branch .C false (formByte f)
  | .bcs => .branch .C true (formByte f)
  | .beq => .branch .Z true (formByte f)
  | .bmi => .branch .N true (formByte f)
  | .bne => .branch .Z false (formByte f)
  | .bpl => .branch .N false (formByte f)
  | .bvc => .branch .V false (formByte f)
  | .bvs => .branch .V true (formByte f)
  | .clc => .implied (setFlag .C false)
  | .sec => .implied (setFlag .C true)
  | .cli => .implied (setFlag .I false)
  | .sei => .implied (setFlag .I true)
  | .cld => .implied (setFlag .D false)
  | .sed => .implied (setFlag .D true)
  | .clv => .implied (setFlag .V false)
  | .brk => .brk
  | .nop => .implied id
  | .unimplemented => .undefined

/-- What a shape does. -/
def Kind.run (op : Byte) (f : Form) (s : State) : Kind → Result
  | .read act => execRead op f act s
  | .store v => execStore op f (v s) s
  | .modify act => execModify op f act s
  | .implied act => execImplied op act s
  | .branch fl want o => execBranch op fl want o s
  | .brk => execBrk s
  | .undefined => .next (halt s)

/-- Every instruction's meaning is its mnemonic's shape on its opcode and form. -/
theorem exec_eq (i : Instr) (s : State) :
    exec i s = (kindOf i.form i.mnemonic).run i.opcode i.form s := by
  cases i <;> rfl

end Sys2Proof.Machine
end

