-- ==== Sys2Proof/Laws/Forms.lean ====
section
/-! SUPPORT. Which opcodes and modes each mnemonic has, as one table, and the two halves of
`Safety.HasForms` proved from it once for all mnemonics. -/

namespace Sys2Proof.Machine

open Sys2Proof.Safety

/-- The opcodes and modes of a mnemonic; the undefined bytes are not listed. -/
def formsOf : Mnemonic → List (Byte × Mode)
  | .lda => [(0xA9, .imm), (0xA5, .zpg), (0xB5, .zpgX), (0xAD, .abs), (0xBD, .absX),
      (0xB9, .absY), (0xA1, .xInd), (0xB1, .indY)]
  | .ldx => [(0xA2, .imm), (0xA6, .zpg), (0xB6, .zpgY), (0xAE, .abs), (0xBE, .absY)]
  | .ldy => [(0xA0, .imm), (0xA4, .zpg), (0xB4, .zpgX), (0xAC, .abs), (0xBC, .absX)]
  | .sta => [(0x85, .zpg), (0x95, .zpgX), (0x8D, .abs), (0x9D, .absX), (0x99, .absY),
      (0x81, .xInd), (0x91, .indY)]
  | .stx => [(0x86, .zpg), (0x96, .zpgY), (0x8E, .abs)]
  | .sty => [(0x84, .zpg), (0x94, .zpgX), (0x8C, .abs)]
  | .tax => [(0xAA, .impl)]
  | .tay => [(0xA8, .impl)]
  | .txa => [(0x8A, .impl)]
  | .tya => [(0x98, .impl)]
  | .tsx => [(0xBA, .impl)]
  | .txs => [(0x9A, .impl)]
  | .pha => [(0x48, .impl)]
  | .pla => [(0x68, .impl)]
  | .php => [(0x08, .impl)]
  | .plp => [(0x28, .impl)]
  | .and => [(0x29, .imm), (0x25, .zpg), (0x35, .zpgX), (0x2D, .abs), (0x3D, .absX),
      (0x39, .absY), (0x21, .xInd), (0x31, .indY)]
  | .ora => [(0x09, .imm), (0x05, .zpg), (0x15, .zpgX), (0x0D, .abs), (0x1D, .absX),
      (0x19, .absY), (0x01, .xInd), (0x11, .indY)]
  | .eor => [(0x49, .imm), (0x45, .zpg), (0x55, .zpgX), (0x4D, .abs), (0x5D, .absX),
      (0x59, .absY), (0x41, .xInd), (0x51, .indY)]
  | .bit => [(0x24, .zpg), (0x2C, .abs)]
  | .adc => [(0x69, .imm), (0x65, .zpg), (0x75, .zpgX), (0x6D, .abs), (0x7D, .absX),
      (0x79, .absY), (0x61, .xInd), (0x71, .indY)]
  | .sbc => [(0xE9, .imm), (0xE5, .zpg), (0xF5, .zpgX), (0xED, .abs), (0xFD, .absX),
      (0xF9, .absY), (0xE1, .xInd), (0xF1, .indY)]
  | .cmp => [(0xC9, .imm), (0xC5, .zpg), (0xD5, .zpgX), (0xCD, .abs), (0xDD, .absX),
      (0xD9, .absY), (0xC1, .xInd), (0xD1, .indY)]
  | .cpx => [(0xE0, .imm), (0xE4, .zpg), (0xEC, .abs)]
  | .cpy => [(0xC0, .imm), (0xC4, .zpg), (0xCC, .abs)]
  | .inc => [(0xE6, .zpg), (0xF6, .zpgX), (0xEE, .abs), (0xFE, .absX)]
  | .dec => [(0xC6, .zpg), (0xD6, .zpgX), (0xCE, .abs), (0xDE, .absX)]
  | .inx => [(0xE8, .impl)]
  | .iny => [(0xC8, .impl)]
  | .dex => [(0xCA, .impl)]
  | .dey => [(0x88, .impl)]
  | .asl => [(0x0A, .acc), (0x06, .zpg), (0x16, .zpgX), (0x0E, .abs), (0x1E, .absX)]
  | .lsr => [(0x4A, .acc), (0x46, .zpg), (0x56, .zpgX), (0x4E, .abs), (0x5E, .absX)]
  | .rol => [(0x2A, .acc), (0x26, .zpg), (0x36, .zpgX), (0x2E, .abs), (0x3E, .absX)]
  | .ror => [(0x6A, .acc), (0x66, .zpg), (0x76, .zpgX), (0x6E, .abs), (0x7E, .absX)]
  | .jmp => [(0x4C, .abs), (0x6C, .ind)]
  | .jsr => [(0x20, .abs)]
  | .rts => [(0x60, .impl)]
  | .rti => [(0x40, .impl)]
  | .bcc => [(0x90, .rel)]
  | .bcs => [(0xB0, .rel)]
  | .beq => [(0xF0, .rel)]
  | .bmi => [(0x30, .rel)]
  | .bne => [(0xD0, .rel)]
  | .bpl => [(0x10, .rel)]
  | .bvc => [(0x50, .rel)]
  | .bvs => [(0x70, .rel)]
  | .clc => [(0x18, .impl)]
  | .sec => [(0x38, .impl)]
  | .cli => [(0x58, .impl)]
  | .sei => [(0x78, .impl)]
  | .cld => [(0xD8, .impl)]
  | .sed => [(0xF8, .impl)]
  | .clv => [(0xB8, .impl)]
  | .brk => [(0x00, .impl)]
  | .nop => [(0xEA, .impl)]
  | .unimplemented => []

/-- Every instruction but an undefined byte has a form of its mnemonic's list. -/
theorem mem_formsOf (i : Instr) (h : i.mnemonic ≠ .unimplemented) :
    (i.opcode, i.mode) ∈ formsOf i.mnemonic := by
  have key : (decide (i.mnemonic = .unimplemented) ||
      (formsOf i.mnemonic).contains (i.opcode, i.mode)) = true := by cases i <;> rfl
  simpa [h] using key

/-- The decoder gives every listed opcode its mnemonic and mode. -/
theorem decodeWindow_formsOf (m : Mnemonic) (b1 b2 : Byte) :
    (formsOf m).all (fun e => decide ((decodeWindow e.1 b1 b2).mnemonic = m) &&
      decide ((decodeWindow e.1 b1 b2).mode = e.2)) = true := by
  cases m <;> rfl

/-- A mnemonic has exactly its listed forms. -/
theorem hasForms (m : Mnemonic) (h : m ≠ .unimplemented) : HasForms m (formsOf m) := by
  refine ⟨fun i e => e ▸ mem_formsOf i (e ▸ h), fun e he b1 b2 => ?_⟩
  simpa using List.all_eq_true.1 (decodeWindow_formsOf m b1 b2) e he

end Sys2Proof.Machine
end

