-- ==== Sys2Proof/Laws/Results.lean ====
section
/-! SUPPORT. The result of each shape of instruction in the terms of Safety: one equation a shape, and
what an operand read leaves. A proof about an instruction rewrites with the equation of its shape. -/

namespace Sys2Proof.Machine

open Sys2Proof.Safety

/-! ### What an operand read leaves -/

@[simp] theorem afterOperandOf_pc (i : Instr) (s : State) : (afterOperandOf i s).pc = s.pc := by
  simp [afterOperandOf, afterResolve]
@[simp] theorem afterOperandOf_pcSet (i : Instr) (s : State) :
    (afterOperandOf i s).pcSet = s.pcSet := by simp [afterOperandOf, afterResolve]
@[simp] theorem afterOperandOf_sp (i : Instr) (s : State) : (afterOperandOf i s).sp = s.sp := by
  simp [afterOperandOf, afterResolve]
@[simp] theorem afterOperandOf_a (i : Instr) (s : State) : (afterOperandOf i s).a = s.a := by
  simp [afterOperandOf, afterResolve]
@[simp] theorem afterOperandOf_x (i : Instr) (s : State) : (afterOperandOf i s).x = s.x := by
  simp [afterOperandOf, afterResolve]
@[simp] theorem afterOperandOf_y (i : Instr) (s : State) : (afterOperandOf i s).y = s.y := by
  simp [afterOperandOf, afterResolve]
@[simp] theorem afterOperandOf_p (i : Instr) (s : State) : (afterOperandOf i s).p = s.p := by
  simp [afterOperandOf, afterResolve]
@[simp] theorem afterOperandOf_run (i : Instr) (s : State) : (afterOperandOf i s).run = s.run := by
  simp [afterOperandOf, afterResolve]
@[simp] theorem afterOperandOf_cycles (i : Instr) (s : State) :
    (afterOperandOf i s).cycles = s.cycles := by simp [afterOperandOf, afterResolve]
@[simp] theorem afterOperandOf_mem (i : Instr) (s : State) : (afterOperandOf i s).mem = s.mem := by
  simp [afterOperandOf, afterResolve]
@[simp] theorem afterOperandOf_routes (i : Instr) (s : State) :
    (afterOperandOf i s).routes = s.routes := by simp [afterOperandOf, afterResolve]
@[simp] theorem afterOperandOf_params (i : Instr) (s : State) :
    (afterOperandOf i s).params = s.params := by simp [afterOperandOf, afterResolve]

/-! ### One equation a shape -/

/-- An instruction that reads one operand byte (R160, R141, R143). -/
theorem exec_of_read (i : Instr) (s : State) {act : Byte → State → State}
    (h : kindOf i.form i.mnemonic = .read act) :
    exec i s = .next (addCycles (baseOf i s) (act (operandOf i s)
      (addCycles (crossCycles s.params i.opcode (resolve i.form s).crossed)
        (afterOperandOf i s)))) := by
  rw [exec_eq, h]
  simp only [Kind.run, execRead, operandByte_addCycles, afterOperand_addCycles]
  rfl

/-- A store (R164). -/
theorem exec_of_store (i : Instr) (s : State) {v : State → Byte}
    (h : kindOf i.form i.mnemonic = .store v) :
    exec i s = .next (addCycles (baseOf i s)
      (writeOperand (targetOf i s) (v s) (afterResolve i s))) := by
  rw [exec_eq, h]; rfl

/-- A read-modify-write instruction (R230). -/
theorem exec_of_modify (i : Instr) (s : State) {act : Byte → Byte → Byte × Byte}
    (h : kindOf i.form i.mnemonic = .modify act) :
    exec i s = .next (addCycles (baseOf i s) (setP (act (operandOf i s) s.p).2
      (writeOperand (targetOf i s) (act (operandOf i s) s.p).1
        (addCycles (crossCycles s.params i.opcode (resolve i.form s).crossed)
          (afterOperandOf i s))))) := by
  rw [exec_eq, h]
  simp only [Kind.run, execModify, operandByte_addCycles, afterOperand_addCycles, addCycles_p,
    resolve_p]
  rfl

/-- An instruction of mode `impl` or a jump. -/
theorem exec_of_implied (i : Instr) (s : State) {act : State → State}
    (h : kindOf i.form i.mnemonic = .implied act) :
    exec i s = .next (addCycles (baseOf i s) (act s)) := by rw [exec_eq, h]; rfl

/-- A branch (R270). -/
theorem exec_of_branch (i : Instr) (s : State) {fl : Flag} {want : Bool} {o : Byte}
    (h : kindOf i.form i.mnemonic = .branch fl want o) :
    exec i s = .next (addCycles (baseOf i s) (branch (getFlag fl s.p == want) o s)) := by
  rw [exec_eq, h]; rfl

/-! ### Jumps -/

@[simp] theorem jumpTo_sp (f : Form) (s : State) : (jumpTo f s).sp = s.sp := by
  unfold jumpTo; simp only; split <;> simp
@[simp] theorem jumpTo_a (f : Form) (s : State) : (jumpTo f s).a = s.a := by
  unfold jumpTo; simp only; split <;> simp
@[simp] theorem jumpTo_x (f : Form) (s : State) : (jumpTo f s).x = s.x := by
  unfold jumpTo; simp only; split <;> simp
@[simp] theorem jumpTo_y (f : Form) (s : State) : (jumpTo f s).y = s.y := by
  unfold jumpTo; simp only; split <;> simp
@[simp] theorem jumpTo_p (f : Form) (s : State) : (jumpTo f s).p = s.p := by
  unfold jumpTo; simp only; split <;> simp
@[simp] theorem jumpTo_run (f : Form) (s : State) : (jumpTo f s).run = s.run := by
  unfold jumpTo; simp only; split <;> simp
@[simp] theorem jumpTo_cycles (f : Form) (s : State) : (jumpTo f s).cycles = s.cycles := by
  unfold jumpTo; simp only; split <;> simp
@[simp] theorem jumpTo_mem (f : Form) (s : State) : (jumpTo f s).mem = s.mem := by
  unfold jumpTo; simp only; split <;> simp
@[simp] theorem jumpTo_routes (f : Form) (s : State) : (jumpTo f s).routes = s.routes := by
  unfold jumpTo; simp only; split <;> simp
@[simp] theorem jumpTo_params (f : Form) (s : State) : (jumpTo f s).params = s.params := by
  unfold jumpTo; simp only; split <;> simp

/-! ### Flags -/

/-- `SetZN(v)` on a status byte, flag by flag (R140). -/
theorem znSet_setZN (v p : Byte) : ZNSet v p (setZN v p) := by
  intro f
  rw [getFlag_setZN, BitVec.msb_eq_getLsbD_last]
  cases f <;> simp

/-- A carry and then `SetZN(v)` on a status byte, flag by flag. -/
theorem cznSet_setZN (c : Bool) (v p : Byte) : CZNSet c v p (setZN v (putFlag .C c p)) := by
  intro f
  rw [getFlag_setZN, getFlag_putFlag, BitVec.msb_eq_getLsbD_last]
  cases f <;> simp

/-- One flag written, flag by flag. -/
theorem flagSet_putFlag (g : Flag) (v : Bool) (p : Byte) : FlagSet g v p (putFlag g v p) :=
  fun f => getFlag_putFlag f g v p

end Sys2Proof.Machine
end

