-- ==== Sys2Proof/Laws/Interrupt.lean ====
section
/-! SUPPORT. What taking an interrupt and returning from one do, each once. -/

namespace Sys2Proof.Machine

open Sys2Proof.Safety

/-! ### Writes and the stack pointer -/

theorem memWrite_setSp (a : Word) (v u : Byte) (s : State) :
    memWrite a v (setSp u s) = setSp u (memWrite a v s) := rfl

@[simp] theorem setSp_setSp (u v : Byte) (s : State) : setSp u (setSp v s) = setSp u s := rfl

theorem byte_sub_two (v : Byte) : v - 1 - 1 = v - 2 := by rw [BitVec.sub_sub]; rfl

theorem byte_sub_three (v : Byte) : v - 1 - 1 - 1 = v - 3 := by
  rw [BitVec.sub_sub, BitVec.sub_sub]; rfl

theorem byte_add_two (v : Byte) : v + 1 + 1 = v + 2 := by rw [BitVec.add_assoc]; rfl

theorem byte_add_three (v : Byte) : v + 1 + 1 + 1 = v + 3 := by
  rw [BitVec.add_assoc, BitVec.add_assoc]; rfl

/-- A push is a write at the slot and one less in `S` (R75). -/
theorem push_eq (v : Byte) (s : State) :
    push v s = setSp (s.sp - 1) (memWrite (stackAddr s.sp) v s) := rfl

/-- `Push16` is two writes, high byte at the higher slot (R77). -/
theorem push16_eq (w : Word) (s : State) :
    push16 w s = setSp (s.sp - 2) (memWrite (stackAddr (s.sp - 1)) (lo8 w)
      (memWrite (stackAddr s.sp) (hi8 w) s)) := by
  simp only [push16, push_eq, memWrite_setSp, setSp_setSp, setSp_sp, byte_sub_two]

/-- The pushes of the service path are its frame and three less in `S` (R320). -/
theorem pushFrame_eq (brk : Bool) (s : State) :
    pushFrame brk s =
      setSp (s.sp - 3) (framed (pushedStatus s.params.hwPushClearsB brk s.p) s) := by
  have h : ∀ v : Byte, v - 2 - 1 = v - 3 := fun v => by rw [BitVec.sub_sub]; rfl
  simp only [pushFrame, push_eq, push16_eq, memWrite_setSp, setSp_setSp, setSp_sp, framed, h,
    setSp_params, setSp_p, memWrite_params, memWrite_p]

/-! ### The slots of the stack page -/

/-- Whether the stack page is memory depends on the routes alone. -/
theorem stackIsMemory_congr {s t : State} (h : t.routes = s.routes) :
    StackIsMemory t ↔ StackIsMemory s := by simp only [StackIsMemory, placeOf_congr h]

/-- A pushed byte is in its slot. -/
theorem peek_stack_same {s : State} (h : StackIsMemory s) (u v : Byte) :
    peek (memWrite (stackAddr u) v s) (stackAddr u) = some v := by
  obtain ⟨base, hb⟩ := h
  exact peek_memWrite_same v (hb u)

/-- Two slots are two cells. -/
theorem sharesCell_stack {s : State} (h : StackIsMemory s) {u w : Byte} (hne : u ≠ w) :
    sharesCell s (stackAddr u) (stackAddr w) = false := by
  obtain ⟨base, hb⟩ := h
  have hz : base + zext u ≠ base + zext w := fun e => hne (by
    have e2 := congrArg BitVec.toNat ((BitVec.add_right_inj base).1 e)
    have hu := u.isLt
    have hw := w.isLt
    simp only [zext, BitVec.toNat_setWidth] at e2
    exact BitVec.eq_of_toNat_eq (by omega))
  simp only [sharesCell, hb, beq_eq_false_iff_ne, ne_eq]
  exact hz

/-- A pushed byte leaves the other slots. -/
theorem peek_stack_ne {s : State} (h : StackIsMemory s) {u w : Byte} (v : Byte) (hne : w ≠ u) :
    peek (memWrite (stackAddr u) v s) (stackAddr w) = peek s (stackAddr w) :=
  peek_memWrite_ne v s (sharesCell_stack h hne)

/-! ### The frame -/

@[simp] theorem framed_pc (v : Byte) (s : State) : (framed v s).pc = s.pc := by
  simp only [framed, memWrite_pc]
@[simp] theorem framed_pcSet (v : Byte) (s : State) : (framed v s).pcSet = s.pcSet := by
  simp only [framed, memWrite_pcSet]
@[simp] theorem framed_sp (v : Byte) (s : State) : (framed v s).sp = s.sp := by
  simp only [framed, memWrite_sp]
@[simp] theorem framed_a (v : Byte) (s : State) : (framed v s).a = s.a := by
  simp only [framed, memWrite_a]
@[simp] theorem framed_x (v : Byte) (s : State) : (framed v s).x = s.x := by
  simp only [framed, memWrite_x]
@[simp] theorem framed_y (v : Byte) (s : State) : (framed v s).y = s.y := by
  simp only [framed, memWrite_y]
@[simp] theorem framed_p (v : Byte) (s : State) : (framed v s).p = s.p := by
  simp only [framed, memWrite_p]
@[simp] theorem framed_run (v : Byte) (s : State) : (framed v s).run = s.run := by
  simp only [framed, memWrite_run]
@[simp] theorem framed_cycles (v : Byte) (s : State) : (framed v s).cycles = s.cycles := by
  simp only [framed, memWrite_cycles]
@[simp] theorem framed_routes (v : Byte) (s : State) : (framed v s).routes = s.routes := by
  simp only [framed, memWrite_routes]
@[simp] theorem framed_params (v : Byte) (s : State) : (framed v s).params = s.params := by
  simp only [framed, memWrite_params]

theorem framed_keeps_wf {s : State} (v : Byte) (h : s.mem.wf) : (framed v s).mem.wf :=
  memWrite_keeps_wf _ _ (memWrite_keeps_wf _ _ (memWrite_keeps_wf _ _ h))

/-- The frame changes no byte but those of its three slots' cells. -/
theorem peek_framed_ne {b : Word} (v : Byte) (s : State) (h0 : sharesCell s b (stackAddr s.sp) = false)
    (h1 : sharesCell s b (stackAddr (s.sp - 1)) = false)
    (h2 : sharesCell s b (stackAddr (s.sp - 2)) = false) : peek (framed v s) b = peek s b := by
  rw [framed, peek_memWrite_ne _ _ (by simpa using h2), peek_memWrite_ne _ _ (by simpa using h1),
    peek_memWrite_ne _ _ h0]

theorem has_framed {s : State} {k : Line} (v : Byte) (h : s.pending.has k = true) :
    (framed v s).pending.has k = true := has_memWrite _ _ (has_memWrite _ _ (has_memWrite _ _ h))

/-! ### The pushes of the service path -/

@[simp] theorem pushFrame_sp (brk : Bool) (s : State) : (pushFrame brk s).sp = s.sp - 3 := by
  rw [pushFrame_eq]; rfl
@[simp] theorem pushFrame_pc (brk : Bool) (s : State) : (pushFrame brk s).pc = s.pc := by
  rw [pushFrame_eq]; simp
@[simp] theorem pushFrame_pcSet (brk : Bool) (s : State) : (pushFrame brk s).pcSet = s.pcSet := by
  rw [pushFrame_eq]; simp
@[simp] theorem pushFrame_a (brk : Bool) (s : State) : (pushFrame brk s).a = s.a := by
  rw [pushFrame_eq]; simp
@[simp] theorem pushFrame_x (brk : Bool) (s : State) : (pushFrame brk s).x = s.x := by
  rw [pushFrame_eq]; simp
@[simp] theorem pushFrame_y (brk : Bool) (s : State) : (pushFrame brk s).y = s.y := by
  rw [pushFrame_eq]; simp
@[simp] theorem pushFrame_p (brk : Bool) (s : State) : (pushFrame brk s).p = s.p := by
  rw [pushFrame_eq]; simp
@[simp] theorem pushFrame_run (brk : Bool) (s : State) : (pushFrame brk s).run = s.run := by
  rw [pushFrame_eq]; simp
@[simp] theorem pushFrame_cycles (brk : Bool) (s : State) : (pushFrame brk s).cycles = s.cycles := by
  rw [pushFrame_eq]; simp
@[simp] theorem pushFrame_routes (brk : Bool) (s : State) : (pushFrame brk s).routes = s.routes := by
  rw [pushFrame_eq]; simp
@[simp] theorem pushFrame_params (brk : Bool) (s : State) : (pushFrame brk s).params = s.params := by
  rw [pushFrame_eq]; simp

theorem pushFrame_keeps_wf {s : State} (brk : Bool) (h : s.mem.wf) : (pushFrame brk s).mem.wf := by
  rw [pushFrame_eq, setSp_mem]; exact framed_keeps_wf _ h

theorem has_pushFrame {s : State} {k : Line} (brk : Bool) (h : s.pending.has k = true) :
    (pushFrame brk s).pending.has k = true := by
  rw [pushFrame_eq, setSp_pending]; exact has_framed _ h

/-! ### The rest of the service path -/

/-- A vector's two reads, the flag, the cycles and the line, from a state with nothing pushed. -/
theorem enterHandler_eq (k : Line) (s : State)
    (h : (k == .reset && s.params.resetOverrideC000) = false) :
    enterHandler k s = vectored k (vectorOf k) s.sp s := by
  have hp : (addCycles 7 (setFlag .I true s)).params = s.params := rfl
  simp only [enterHandler, loadVector, hp, h, Bool.false_eq_true, if_false]
  rfl

/-- The variant that loads `0xC000` reads nothing (R322). -/
theorem enterHandler_override (s : State) (h : s.params.resetOverrideC000 = true) :
    enterHandler .reset s = { s with
      p := putFlag .I true s.p, cycles := s.cycles + 7, pc := 0xC000, pcSet := true
      pending := s.pending.service .reset } := by
  have hp : (addCycles 7 (setFlag .I true s)).params = s.params := rfl
  simp only [enterHandler, loadVector, hp, h, beq_self_eq_true, Bool.and_self, if_true]
  rfl

@[simp] theorem enterHandler_sp (k : Line) (s : State) : (enterHandler k s).sp = s.sp := by
  simp only [enterHandler, loadVector]; split <;> rfl
@[simp] theorem enterHandler_pcSet (k : Line) (s : State) : (enterHandler k s).pcSet = true := rfl
@[simp] theorem enterHandler_a (k : Line) (s : State) : (enterHandler k s).a = s.a := by
  simp only [enterHandler, loadVector]; split <;> rfl
@[simp] theorem enterHandler_x (k : Line) (s : State) : (enterHandler k s).x = s.x := by
  simp only [enterHandler, loadVector]; split <;> rfl
@[simp] theorem enterHandler_y (k : Line) (s : State) : (enterHandler k s).y = s.y := by
  simp only [enterHandler, loadVector]; split <;> rfl
@[simp] theorem enterHandler_p (k : Line) (s : State) :
    (enterHandler k s).p = putFlag .I true s.p := by
  simp only [enterHandler, loadVector]; split <;> rfl
@[simp] theorem enterHandler_run (k : Line) (s : State) : (enterHandler k s).run = s.run := by
  simp only [enterHandler, loadVector]; split <;> rfl
@[simp] theorem enterHandler_cycles (k : Line) (s : State) :
    (enterHandler k s).cycles = s.cycles + 7 := by
  simp only [enterHandler, loadVector]; split <;> rfl
@[simp] theorem enterHandler_mem (k : Line) (s : State) : (enterHandler k s).mem = s.mem := by
  simp only [enterHandler, loadVector]; split <;> rfl
@[simp] theorem enterHandler_routes (k : Line) (s : State) :
    (enterHandler k s).routes = s.routes := by
  simp only [enterHandler, loadVector]; split <;> rfl
@[simp] theorem enterHandler_params (k : Line) (s : State) :
    (enterHandler k s).params = s.params := by
  simp only [enterHandler, loadVector]; split <;> rfl

/-- A service clears its own line whatever its reads ask for. -/
theorem not_has_enterHandler (k : Line) (s : State) : (enterHandler k s).pending.has k = false := by
  simp only [enterHandler, clearLine_pending, Latch.has_service, bne_self_eq_false, Bool.and_false]

/-- A service clears no other line. -/
theorem has_enterHandler {k j : Line} {s : State} (hne : j ≠ k) (h : s.pending.has j = true) :
    (enterHandler k s).pending.has j = true := by
  have hl : (loadVector k (addCycles 7 (setFlag .I true s))).2.pending.has j = true := by
    unfold loadVector
    split
    · exact h
    · exact has_afterRead _ (has_afterRead _ h)
  have hk : (k != j) = true := by simp [Ne.symm hne]
  simp only [enterHandler, clearLine_pending, Latch.has_service, hk, Bool.and_true]
  exact hl

/-! ### `serviceInterrupt` -/

/-- RESET's service pushes nothing and needs no `PC` (R320). -/
theorem service_reset (brk : Bool) (s : State) :
    serviceInterrupt .reset brk s = .next (enterHandler .reset s) := rfl

/-- The other two, while `PC` holds a value. -/
theorem service_other {k : Line} (brk : Bool) {s : State} (hk : k ≠ .reset) (h : s.pcSet = true) :
    serviceInterrupt k brk s = .next (enterHandler k (pushFrame brk s)) := by
  cases k <;> simp_all [serviceInterrupt]

/-- The other two, while it holds none (R23). -/
theorem service_unset {k : Line} (brk : Bool) {s : State} (hk : k ≠ .reset)
    (h : s.pcSet = false) : serviceInterrupt k brk s = .fault .pcUnset := by
  cases k <;> simp_all [serviceInterrupt]

/-- Everything a service that answers a next state can be: the handler's entry from the state itself
(RESET) or from the state after the pushes. -/
theorem service_cases {k : Line} {brk : Bool} {s t : State}
    (h : serviceInterrupt k brk s = .next t) :
    (k = .reset ∧ t = enterHandler .reset s) ∨
    (k ≠ .reset ∧ s.pcSet = true ∧ t = enterHandler k (pushFrame brk s)) := by
  cases k
  case reset => exact .inl ⟨rfl, by simpa [service_reset] using h.symm⟩
  all_goals
    refine .inr ⟨by decide, ?_⟩
    cases hp : s.pcSet
    · rw [service_unset brk (by decide) hp] at h; cases h
    · rw [service_other brk (by decide) hp] at h; cases h; exact ⟨rfl, rfl⟩

/-- BRK, where it answers a next state: IRQ's service path, then the base count (R298). -/
theorem execBrk_next {s t : State} (h : execBrk s = .next t) :
    s.pcSet = true ∧
      t = addCycles (baseCycles s.params 0x00) (enterHandler .irq (pushFrame true s)) := by
  unfold execBrk at h
  split at h <;> cases h
  rename_i u hu
  rcases service_cases hu with ⟨h, _⟩ | ⟨_, hp, rfl⟩
  · cases h
  · exact ⟨hp, rfl⟩

end Sys2Proof.Machine
end

