-- ==== Sys2Proof/Laws/PerInstr.lean ====
section
/-! SUPPORT. The encoding of every instruction, one lemma a constructor: decoding its bytes gives it back. -/

namespace Sys2Proof.Laws.RoundTrip

open Sys2Proof.Machine

/-- Decoding the bytes of a well-formed instruction gives the instruction and the bytes after it. -/
def Statement (i : Instr) : Prop :=
  i.wf = true → ∀ rest : List Byte, decode (encode i ++ rest) = .ok i rest

/-- An opcode that takes an operand word gives back the word whose bytes follow it. -/
theorem withWord_roundTrip (f : Word → Instr) (w : Word) (rest : List Byte) :
    Decoded.ok (f (concat (hi8 w) (lo8 w))) rest = Decoded.ok (f w) rest := by
  rw [concat_hi8_lo8]

/-- The map lists no undefined byte. -/
theorem undefined_not_in_map :
    undefinedOpcodes.all (fun op => (opcodeMap.find? (fun row => row.op == op)).isNone) = true := by
  decide

/-- An undefined byte starts the row of undefined bytes. -/
theorem shapeOf_undefined {op : Byte} (h : undefinedOpcodes.contains op = true) :
    shapeOf op = .single (.undefinedHalt op) := by
  have hn := List.all_eq_true.1 undefined_not_in_map op (List.contains_iff_mem.1 h)
  simp only [shapeOf, Option.isNone_iff_eq_none.1 hn]

theorem ldaImm (o : Byte) : Statement (.ldaImm o) := fun _ _ => rfl
theorem ldaZpg (o : Byte) : Statement (.ldaZpg o) := fun _ _ => rfl
theorem ldaZpgX (o : Byte) : Statement (.ldaZpgX o) := fun _ _ => rfl
theorem ldaAbs (w : Word) : Statement (.ldaAbs w) := fun _ => withWord_roundTrip .ldaAbs w
theorem ldaAbsX (w : Word) : Statement (.ldaAbsX w) := fun _ => withWord_roundTrip .ldaAbsX w
theorem ldaAbsY (w : Word) : Statement (.ldaAbsY w) := fun _ => withWord_roundTrip .ldaAbsY w
theorem ldaXInd (o : Byte) : Statement (.ldaXInd o) := fun _ _ => rfl
theorem ldaIndY (o : Byte) : Statement (.ldaIndY o) := fun _ _ => rfl
theorem ldxImm (o : Byte) : Statement (.ldxImm o) := fun _ _ => rfl
theorem ldxZpg (o : Byte) : Statement (.ldxZpg o) := fun _ _ => rfl
theorem ldxZpgY (o : Byte) : Statement (.ldxZpgY o) := fun _ _ => rfl
theorem ldxAbs (w : Word) : Statement (.ldxAbs w) := fun _ => withWord_roundTrip .ldxAbs w
theorem ldxAbsY (w : Word) : Statement (.ldxAbsY w) := fun _ => withWord_roundTrip .ldxAbsY w
theorem ldyImm (o : Byte) : Statement (.ldyImm o) := fun _ _ => rfl
theorem ldyZpg (o : Byte) : Statement (.ldyZpg o) := fun _ _ => rfl
theorem ldyZpgX (o : Byte) : Statement (.ldyZpgX o) := fun _ _ => rfl
theorem ldyAbs (w : Word) : Statement (.ldyAbs w) := fun _ => withWord_roundTrip .ldyAbs w
theorem ldyAbsX (w : Word) : Statement (.ldyAbsX w) := fun _ => withWord_roundTrip .ldyAbsX w
theorem staZpg (o : Byte) : Statement (.staZpg o) := fun _ _ => rfl
theorem staZpgX (o : Byte) : Statement (.staZpgX o) := fun _ _ => rfl
theorem staAbs (w : Word) : Statement (.staAbs w) := fun _ => withWord_roundTrip .staAbs w
theorem staAbsX (w : Word) : Statement (.staAbsX w) := fun _ => withWord_roundTrip .staAbsX w
theorem staAbsY (w : Word) : Statement (.staAbsY w) := fun _ => withWord_roundTrip .staAbsY w
theorem staXInd (o : Byte) : Statement (.staXInd o) := fun _ _ => rfl
theorem staIndY (o : Byte) : Statement (.staIndY o) := fun _ _ => rfl
theorem stxZpg (o : Byte) : Statement (.stxZpg o) := fun _ _ => rfl
theorem stxZpgY (o : Byte) : Statement (.stxZpgY o) := fun _ _ => rfl
theorem stxAbs (w : Word) : Statement (.stxAbs w) := fun _ => withWord_roundTrip .stxAbs w
theorem styZpg (o : Byte) : Statement (.styZpg o) := fun _ _ => rfl
theorem styZpgX (o : Byte) : Statement (.styZpgX o) := fun _ _ => rfl
theorem styAbs (w : Word) : Statement (.styAbs w) := fun _ => withWord_roundTrip .styAbs w
theorem tax : Statement .tax := fun _ _ => rfl
theorem tay : Statement .tay := fun _ _ => rfl
theorem txa : Statement .txa := fun _ _ => rfl
theorem tya : Statement .tya := fun _ _ => rfl
theorem tsx : Statement .tsx := fun _ _ => rfl
theorem txs : Statement .txs := fun _ _ => rfl
theorem pha : Statement .pha := fun _ _ => rfl
theorem pla : Statement .pla := fun _ _ => rfl
theorem php : Statement .php := fun _ _ => rfl
theorem plp : Statement .plp := fun _ _ => rfl
theorem andImm (o : Byte) : Statement (.andImm o) := fun _ _ => rfl
theorem andZpg (o : Byte) : Statement (.andZpg o) := fun _ _ => rfl
theorem andZpgX (o : Byte) : Statement (.andZpgX o) := fun _ _ => rfl
theorem andAbs (w : Word) : Statement (.andAbs w) := fun _ => withWord_roundTrip .andAbs w
theorem andAbsX (w : Word) : Statement (.andAbsX w) := fun _ => withWord_roundTrip .andAbsX w
theorem andAbsY (w : Word) : Statement (.andAbsY w) := fun _ => withWord_roundTrip .andAbsY w
theorem andXInd (o : Byte) : Statement (.andXInd o) := fun _ _ => rfl
theorem andIndY (o : Byte) : Statement (.andIndY o) := fun _ _ => rfl
theorem oraImm (o : Byte) : Statement (.oraImm o) := fun _ _ => rfl
theorem oraZpg (o : Byte) : Statement (.oraZpg o) := fun _ _ => rfl
theorem oraZpgX (o : Byte) : Statement (.oraZpgX o) := fun _ _ => rfl
theorem oraAbs (w : Word) : Statement (.oraAbs w) := fun _ => withWord_roundTrip .oraAbs w
theorem oraAbsX (w : Word) : Statement (.oraAbsX w) := fun _ => withWord_roundTrip .oraAbsX w
theorem oraAbsY (w : Word) : Statement (.oraAbsY w) := fun _ => withWord_roundTrip .oraAbsY w
theorem oraXInd (o : Byte) : Statement (.oraXInd o) := fun _ _ => rfl
theorem oraIndY (o : Byte) : Statement (.oraIndY o) := fun _ _ => rfl
theorem eorImm (o : Byte) : Statement (.eorImm o) := fun _ _ => rfl
theorem eorZpg (o : Byte) : Statement (.eorZpg o) := fun _ _ => rfl
theorem eorZpgX (o : Byte) : Statement (.eorZpgX o) := fun _ _ => rfl
theorem eorAbs (w : Word) : Statement (.eorAbs w) := fun _ => withWord_roundTrip .eorAbs w
theorem eorAbsX (w : Word) : Statement (.eorAbsX w) := fun _ => withWord_roundTrip .eorAbsX w
theorem eorAbsY (w : Word) : Statement (.eorAbsY w) := fun _ => withWord_roundTrip .eorAbsY w
theorem eorXInd (o : Byte) : Statement (.eorXInd o) := fun _ _ => rfl
theorem eorIndY (o : Byte) : Statement (.eorIndY o) := fun _ _ => rfl
theorem bitZpg (o : Byte) : Statement (.bitZpg o) := fun _ _ => rfl
theorem bitAbs (w : Word) : Statement (.bitAbs w) := fun _ => withWord_roundTrip .bitAbs w
theorem adcImm (o : Byte) : Statement (.adcImm o) := fun _ _ => rfl
theorem adcZpg (o : Byte) : Statement (.adcZpg o) := fun _ _ => rfl
theorem adcZpgX (o : Byte) : Statement (.adcZpgX o) := fun _ _ => rfl
theorem adcAbs (w : Word) : Statement (.adcAbs w) := fun _ => withWord_roundTrip .adcAbs w
theorem adcAbsX (w : Word) : Statement (.adcAbsX w) := fun _ => withWord_roundTrip .adcAbsX w
theorem adcAbsY (w : Word) : Statement (.adcAbsY w) := fun _ => withWord_roundTrip .adcAbsY w
theorem adcXInd (o : Byte) : Statement (.adcXInd o) := fun _ _ => rfl
theorem adcIndY (o : Byte) : Statement (.adcIndY o) := fun _ _ => rfl
theorem sbcImm (o : Byte) : Statement (.sbcImm o) := fun _ _ => rfl
theorem sbcZpg (o : Byte) : Statement (.sbcZpg o) := fun _ _ => rfl
theorem sbcZpgX (o : Byte) : Statement (.sbcZpgX o) := fun _ _ => rfl
theorem sbcAbs (w : Word) : Statement (.sbcAbs w) := fun _ => withWord_roundTrip .sbcAbs w
theorem sbcAbsX (w : Word) : Statement (.sbcAbsX w) := fun _ => withWord_roundTrip .sbcAbsX w
theorem sbcAbsY (w : Word) : Statement (.sbcAbsY w) := fun _ => withWord_roundTrip .sbcAbsY w
theorem sbcXInd (o : Byte) : Statement (.sbcXInd o) := fun _ _ => rfl
theorem sbcIndY (o : Byte) : Statement (.sbcIndY o) := fun _ _ => rfl
theorem cmpImm (o : Byte) : Statement (.cmpImm o) := fun _ _ => rfl
theorem cmpZpg (o : Byte) : Statement (.cmpZpg o) := fun _ _ => rfl
theorem cmpZpgX (o : Byte) : Statement (.cmpZpgX o) := fun _ _ => rfl
theorem cmpAbs (w : Word) : Statement (.cmpAbs w) := fun _ => withWord_roundTrip .cmpAbs w
theorem cmpAbsX (w : Word) : Statement (.cmpAbsX w) := fun _ => withWord_roundTrip .cmpAbsX w
theorem cmpAbsY (w : Word) : Statement (.cmpAbsY w) := fun _ => withWord_roundTrip .cmpAbsY w
theorem cmpXInd (o : Byte) : Statement (.cmpXInd o) := fun _ _ => rfl
theorem cmpIndY (o : Byte) : Statement (.cmpIndY o) := fun _ _ => rfl
theorem cpxImm (o : Byte) : Statement (.cpxImm o) := fun _ _ => rfl
theorem cpxZpg (o : Byte) : Statement (.cpxZpg o) := fun _ _ => rfl
theorem cpxAbs (w : Word) : Statement (.cpxAbs w) := fun _ => withWord_roundTrip .cpxAbs w
theorem cpyImm (o : Byte) : Statement (.cpyImm o) := fun _ _ => rfl
theorem cpyZpg (o : Byte) : Statement (.cpyZpg o) := fun _ _ => rfl
theorem cpyAbs (w : Word) : Statement (.cpyAbs w) := fun _ => withWord_roundTrip .cpyAbs w
theorem incZpg (o : Byte) : Statement (.incZpg o) := fun _ _ => rfl
theorem incZpgX (o : Byte) : Statement (.incZpgX o) := fun _ _ => rfl
theorem incAbs (w : Word) : Statement (.incAbs w) := fun _ => withWord_roundTrip .incAbs w
theorem incAbsX (w : Word) : Statement (.incAbsX w) := fun _ => withWord_roundTrip .incAbsX w
theorem decZpg (o : Byte) : Statement (.decZpg o) := fun _ _ => rfl
theorem decZpgX (o : Byte) : Statement (.decZpgX o) := fun _ _ => rfl
theorem decAbs (w : Word) : Statement (.decAbs w) := fun _ => withWord_roundTrip .decAbs w
theorem decAbsX (w : Word) : Statement (.decAbsX w) := fun _ => withWord_roundTrip .decAbsX w
theorem inx : Statement .inx := fun _ _ => rfl
theorem iny : Statement .iny := fun _ _ => rfl
theorem dex : Statement .dex := fun _ _ => rfl
theorem dey : Statement .dey := fun _ _ => rfl
theorem aslAcc : Statement .aslAcc := fun _ _ => rfl
theorem aslZpg (o : Byte) : Statement (.aslZpg o) := fun _ _ => rfl
theorem aslZpgX (o : Byte) : Statement (.aslZpgX o) := fun _ _ => rfl
theorem aslAbs (w : Word) : Statement (.aslAbs w) := fun _ => withWord_roundTrip .aslAbs w
theorem aslAbsX (w : Word) : Statement (.aslAbsX w) := fun _ => withWord_roundTrip .aslAbsX w
theorem lsrAcc : Statement .lsrAcc := fun _ _ => rfl
theorem lsrZpg (o : Byte) : Statement (.lsrZpg o) := fun _ _ => rfl
theorem lsrZpgX (o : Byte) : Statement (.lsrZpgX o) := fun _ _ => rfl
theorem lsrAbs (w : Word) : Statement (.lsrAbs w) := fun _ => withWord_roundTrip .lsrAbs w
theorem lsrAbsX (w : Word) : Statement (.lsrAbsX w) := fun _ => withWord_roundTrip .lsrAbsX w
theorem rolAcc : Statement .rolAcc := fun _ _ => rfl
theorem rolZpg (o : Byte) : Statement (.rolZpg o) := fun _ _ => rfl
theorem rolZpgX (o : Byte) : Statement (.rolZpgX o) := fun _ _ => rfl
theorem rolAbs (w : Word) : Statement (.rolAbs w) := fun _ => withWord_roundTrip .rolAbs w
theorem rolAbsX (w : Word) : Statement (.rolAbsX w) := fun _ => withWord_roundTrip .rolAbsX w
theorem rorAcc : Statement .rorAcc := fun _ _ => rfl
theorem rorZpg (o : Byte) : Statement (.rorZpg o) := fun _ _ => rfl
theorem rorZpgX (o : Byte) : Statement (.rorZpgX o) := fun _ _ => rfl
theorem rorAbs (w : Word) : Statement (.rorAbs w) := fun _ => withWord_roundTrip .rorAbs w
theorem rorAbsX (w : Word) : Statement (.rorAbsX w) := fun _ => withWord_roundTrip .rorAbsX w
theorem jmpAbs (w : Word) : Statement (.jmpAbs w) := fun _ => withWord_roundTrip .jmpAbs w
theorem jmpInd (w : Word) : Statement (.jmpInd w) := fun _ => withWord_roundTrip .jmpInd w
theorem jsr (w : Word) : Statement (.jsr w) := fun _ => withWord_roundTrip .jsr w
theorem rts : Statement .rts := fun _ _ => rfl
theorem rti : Statement .rti := fun _ _ => rfl
theorem bcc (o : Byte) : Statement (.bcc o) := fun _ _ => rfl
theorem bcs (o : Byte) : Statement (.bcs o) := fun _ _ => rfl
theorem beq (o : Byte) : Statement (.beq o) := fun _ _ => rfl
theorem bmi (o : Byte) : Statement (.bmi o) := fun _ _ => rfl
theorem bne (o : Byte) : Statement (.bne o) := fun _ _ => rfl
theorem bpl (o : Byte) : Statement (.bpl o) := fun _ _ => rfl
theorem bvc (o : Byte) : Statement (.bvc o) := fun _ _ => rfl
theorem bvs (o : Byte) : Statement (.bvs o) := fun _ _ => rfl
theorem clc : Statement .clc := fun _ _ => rfl
theorem sec : Statement .sec := fun _ _ => rfl
theorem cli : Statement .cli := fun _ _ => rfl
theorem sei : Statement .sei := fun _ _ => rfl
theorem cld : Statement .cld := fun _ _ => rfl
theorem sed : Statement .sed := fun _ _ => rfl
theorem clv : Statement .clv := fun _ _ => rfl
theorem brk : Statement .brk := fun _ _ => rfl
theorem nop : Statement .nop := fun _ _ => rfl
theorem undefinedHalt (op : Byte) : Statement (.undefinedHalt op) := fun h _ => by
  simp only [encode, List.cons_append, List.nil_append, decode, shapeOf_undefined h]

end Sys2Proof.Laws.RoundTrip
end

