-- ==== Sys2Proof/Laws/Step.lean ====
section
/-! SUPPORT. What a step can do, said once (`step_cases`), and what the fetch leaves. -/

namespace Sys2Proof.Machine

open Sys2Proof.Safety

/-! ### The fetch -/

@[simp] theorem commitFetch_pcSet (m : Mode) (s : State) : (commitFetch m s).pcSet = s.pcSet := by
  cases m <;> simp [commitFetch]
@[simp] theorem commitFetch_sp (m : Mode) (s : State) : (commitFetch m s).sp = s.sp := by
  cases m <;> simp [commitFetch]
@[simp] theorem commitFetch_a (m : Mode) (s : State) : (commitFetch m s).a = s.a := by
  cases m <;> simp [commitFetch]
@[simp] theorem commitFetch_x (m : Mode) (s : State) : (commitFetch m s).x = s.x := by
  cases m <;> simp [commitFetch]
@[simp] theorem commitFetch_y (m : Mode) (s : State) : (commitFetch m s).y = s.y := by
  cases m <;> simp [commitFetch]
@[simp] theorem commitFetch_p (m : Mode) (s : State) : (commitFetch m s).p = s.p := by
  cases m <;> simp [commitFetch]
@[simp] theorem commitFetch_run (m : Mode) (s : State) : (commitFetch m s).run = s.run := by
  cases m <;> simp [commitFetch]
@[simp] theorem commitFetch_cycles (m : Mode) (s : State) : (commitFetch m s).cycles = s.cycles := by
  cases m <;> simp [commitFetch]
@[simp] theorem commitFetch_mem (m : Mode) (s : State) : (commitFetch m s).mem = s.mem := by
  cases m <;> simp [commitFetch]
@[simp] theorem commitFetch_routes (m : Mode) (s : State) : (commitFetch m s).routes = s.routes := by
  cases m <;> simp [commitFetch]
@[simp] theorem commitFetch_params (m : Mode) (s : State) : (commitFetch m s).params = s.params := by
  cases m <;> simp [commitFetch]

theorem word_add_one_one (w : Word) : w + 1 + 1 = w + 2 := by rw [BitVec.add_assoc]; rfl

theorem word_add_one_two (w : Word) : w + 1 + 2 = w + 3 := by rw [BitVec.add_assoc]; rfl

/-- `PC` is past the instruction's bytes (R122). -/
theorem commitFetch_pc (m : Mode) (s : State) :
    (commitFetch m s).pc = s.pc + BitVec.ofNat 16 m.length := by
  cases m <;>
    simp only [commitFetch, fetchByte_pc, fetchWord_pc, advancePc_pc, word_add_one_one,
      word_add_one_two, Mode.length] <;> rfl

theorem peek_commitFetch (m : Mode) (s : State) (b : Word) :
    peek (commitFetch m s) b = peek s b :=
  peek_congr (commitFetch_mem m s) (commitFetch_routes m s) b

/-- Where no device answers at the instruction's bytes, the fetch changes `PC`, the record and the count of
calls alone. -/
theorem commitFetch_of_memory (m : Mode) (s : State)
    (h : ∀ n < m.length, isDevice s (s.pc + BitVec.ofNat 16 n) = false) :
    commitFetch m s = { s with
      pc := s.pc + BitVec.ofNat 16 m.length
      busLog := (commitFetch m s).busLog, busCalls := (commitFetch m s).busCalls } := by
  have h0 : isDevice s s.pc = false := by simpa using h 0 (by cases m <;> decide)
  have h1 : 1 < m.length → isDevice s (s.pc + 1#16) = false := h 1
  have h2 : 2 < m.length → isDevice s (s.pc + 1#16 + 1#16) = false := by
    rw [show s.pc + 1#16 + 1#16 = s.pc + 2#16 from word_add_one_one _]; exact h 2
  have key : (commitFetch m s).pending = s.pending ∧ (commitFetch m s).devices = s.devices := by
    cases m <;>
      simp [commitFetch, fetchByte, fetchWord, memRead16, memRead, pendingAfter, devicesAfter,
        BusCall.addr, h0] <;>
      first
      | simp [h1 (by decide), h2 (by decide)]
      | simp [h1 (by decide)]
  apply State.ext <;> simp [key, commitFetch_pc]

/-- The fetch only adds lines. -/
theorem has_commitFetch {k : Line} {s : State} (m : Mode) (h : s.pending.has k = true) :
    (commitFetch m s).pending.has k = true := by
  cases m <;> simp only [commitFetch, fetchByte, fetchWord, memRead16, memRead, advancePc_pending] <;>
    first
    | exact has_afterRead _ h
    | exact has_afterRead _ (has_afterRead _ h)
    | exact has_afterRead _ (has_afterRead _ (has_afterRead _ h))

/-- The bus calls of the fetch (R145). -/
theorem commitFetch_calls (m : Mode) (s : State) :
    callsIn (commitFetch m s) = (fetchCalls m s.pc).reverse ++ callsIn s := by
  cases m <;> simp [commitFetch, fetchCalls, callsIn, callOf, BitVec.add_assoc]

/-! ### The step -/

theorem step_halted {s : State} (h : s.run = .halted) : step s = .next s := by simp [step, h]

theorem step_service {s : State} {k : Line} (hr : s.run = .running) (hk : takenLine s = some k) :
    step s = serviceInterrupt k false s := by simp [step, hr, hk]

theorem step_exec {s : State} (h : Executes s) :
    step s = exec (nextInstr s) (commitFetch (nextInstr s).mode s) := by
  obtain ⟨hr, hk, hp⟩ := h
  simp [step, hr, hk, hp]

theorem step_unset {s : State} (hr : s.run = .running) (hk : takenLine s = none)
    (hp : s.pcSet = false) : step s = .fault .pcUnset := by simp [step, hr, hk, hp]

/-- Everything a step that answers a next state can be. -/
theorem step_cases {s t : State} (h : step s = .next t) :
    (s.run = .halted ∧ t = s) ∨
    (s.run = .running ∧ ∃ k, takenLine s = some k ∧ serviceInterrupt k false s = .next t) ∨
    (Executes s ∧ exec (nextInstr s) (commitFetch (nextInstr s).mode s) = .next t) := by
  cases hr : s.run
  · cases hk : takenLine s with
    | some k => exact .inr (.inl ⟨rfl, k, rfl, by rw [← step_service hr hk]; exact h⟩)
    | none =>
      cases hp : s.pcSet
      · rw [step_unset hr hk hp] at h; cases h
      · have he : Executes s := ⟨hr, hk, hp⟩
        exact .inr (.inr ⟨he, by rw [← step_exec he]; exact h⟩)
  · rw [step_halted hr] at h; cases h; exact .inl ⟨rfl, rfl⟩

/-! ### The line a step services -/

/-- A line is serviced exactly when it is the one `Get()` names, and is no IRQ that `P.I` blocks
(R317, R318). -/
theorem takenLine_eq_some {s : State} {k : Line} :
    takenLine s = some k ↔ s.pending.get = some k ∧ ¬(k = .irq ∧ getFlag .I s.p = true) := by
  unfold takenLine
  cases hg : s.pending.get with
  | none => simp
  | some j => cases j <;> cases hI : getFlag .I s.p <;> cases k <;> simp

end Sys2Proof.Machine
end

