-- ==== Sys2Proof/Tests/Slice0.lean ====
section
/-! SUPPORT. Tests of the model: words written out from table 3 of spec/30_encoding.md for every
constructor, one step each of the vectors of spec/95_test_vectors.md, and a witness for the hypotheses
of every statement. The expected results are the spec's. -/

namespace Sys2Proof.Tests

open Sys2Proof.Machine Sys2Proof.Safety

/-! ### Well-formedness -/

/-- The one check: the row of undefined bytes may carry no documented byte (R99). -/
theorem test_wf_refuses_a_documented_byte : (Instr.undefinedHalt 0xEA).wf = false := by decide

theorem test_wf_accepts :
    (Instr.undefinedHalt 0x02).wf = true ∧ (Instr.undefinedHalt 0xFF).wf = true ∧
    (Instr.ldaAbsX 0xFFFF).wf = true ∧ Instr.brk.wf = true := by decide

/-! ### Decoding, bit by bit from table 3; operand bytes `0x5A`, operand words `0x1234` -/

/-- Whether bytes decode to an instruction with nothing left over. -/
def readsAs (bs : List Byte) (i : Instr) : Bool := decide (decode bs = .ok i [])

theorem test_decode_loads_stores_1 :
    (readsAs [0b10100001, 0x5A] (.ldaXInd 0x5A) &&
    readsAs [0b10100101, 0x5A] (.ldaZpg 0x5A) &&
    readsAs [0b10101001, 0x5A] (.ldaImm 0x5A) &&
    readsAs [0b10101101, 0x34, 0x12] (.ldaAbs 0x1234) &&
    readsAs [0b10110001, 0x5A] (.ldaIndY 0x5A) &&
    readsAs [0b10110101, 0x5A] (.ldaZpgX 0x5A) &&
    readsAs [0b10111001, 0x34, 0x12] (.ldaAbsY 0x1234) &&
    readsAs [0b10111101, 0x34, 0x12] (.ldaAbsX 0x1234) &&
    readsAs [0b10100010, 0x5A] (.ldxImm 0x5A) &&
    readsAs [0b10100110, 0x5A] (.ldxZpg 0x5A) &&
    readsAs [0b10101110, 0x34, 0x12] (.ldxAbs 0x1234) &&
    readsAs [0b10110110, 0x5A] (.ldxZpgY 0x5A) &&
    readsAs [0b10111110, 0x34, 0x12] (.ldxAbsY 0x1234) &&
    readsAs [0b10100000, 0x5A] (.ldyImm 0x5A) &&
    readsAs [0b10100100, 0x5A] (.ldyZpg 0x5A) &&
    readsAs [0b10101100, 0x34, 0x12] (.ldyAbs 0x1234)) = true := by decide

theorem test_decode_loads_stores_2 :
    (readsAs [0b10110100, 0x5A] (.ldyZpgX 0x5A) &&
    readsAs [0b10111100, 0x34, 0x12] (.ldyAbsX 0x1234) &&
    readsAs [0b10000001, 0x5A] (.staXInd 0x5A) &&
    readsAs [0b10000101, 0x5A] (.staZpg 0x5A) &&
    readsAs [0b10001101, 0x34, 0x12] (.staAbs 0x1234) &&
    readsAs [0b10010001, 0x5A] (.staIndY 0x5A) &&
    readsAs [0b10010101, 0x5A] (.staZpgX 0x5A) &&
    readsAs [0b10011001, 0x34, 0x12] (.staAbsY 0x1234) &&
    readsAs [0b10011101, 0x34, 0x12] (.staAbsX 0x1234) &&
    readsAs [0b10000110, 0x5A] (.stxZpg 0x5A) &&
    readsAs [0b10001110, 0x34, 0x12] (.stxAbs 0x1234) &&
    readsAs [0b10010110, 0x5A] (.stxZpgY 0x5A) &&
    readsAs [0b10000100, 0x5A] (.styZpg 0x5A) &&
    readsAs [0b10001100, 0x34, 0x12] (.styAbs 0x1234) &&
    readsAs [0b10010100, 0x5A] (.styZpgX 0x5A)) = true := by decide

theorem test_decode_transfers_stack :
    (readsAs [0b10101010] .tax &&
    readsAs [0b10101000] .tay &&
    readsAs [0b10001010] .txa &&
    readsAs [0b10011000] .tya &&
    readsAs [0b10111010] .tsx &&
    readsAs [0b10011010] .txs &&
    readsAs [0b01001000] .pha &&
    readsAs [0b01101000] .pla &&
    readsAs [0b00001000] .php &&
    readsAs [0b00101000] .plp) = true := by decide

theorem test_decode_logic_1 :
    (readsAs [0b00100001, 0x5A] (.andXInd 0x5A) &&
    readsAs [0b00100101, 0x5A] (.andZpg 0x5A) &&
    readsAs [0b00101001, 0x5A] (.andImm 0x5A) &&
    readsAs [0b00101101, 0x34, 0x12] (.andAbs 0x1234) &&
    readsAs [0b00110001, 0x5A] (.andIndY 0x5A) &&
    readsAs [0b00110101, 0x5A] (.andZpgX 0x5A) &&
    readsAs [0b00111001, 0x34, 0x12] (.andAbsY 0x1234) &&
    readsAs [0b00111101, 0x34, 0x12] (.andAbsX 0x1234) &&
    readsAs [0b00000001, 0x5A] (.oraXInd 0x5A) &&
    readsAs [0b00000101, 0x5A] (.oraZpg 0x5A) &&
    readsAs [0b00001001, 0x5A] (.oraImm 0x5A) &&
    readsAs [0b00001101, 0x34, 0x12] (.oraAbs 0x1234) &&
    readsAs [0b00010001, 0x5A] (.oraIndY 0x5A) &&
    readsAs [0b00010101, 0x5A] (.oraZpgX 0x5A) &&
    readsAs [0b00011001, 0x34, 0x12] (.oraAbsY 0x1234) &&
    readsAs [0b00011101, 0x34, 0x12] (.oraAbsX 0x1234)) = true := by decide

theorem test_decode_logic_2 :
    (readsAs [0b01000001, 0x5A] (.eorXInd 0x5A) &&
    readsAs [0b01000101, 0x5A] (.eorZpg 0x5A) &&
    readsAs [0b01001001, 0x5A] (.eorImm 0x5A) &&
    readsAs [0b01001101, 0x34, 0x12] (.eorAbs 0x1234) &&
    readsAs [0b01010001, 0x5A] (.eorIndY 0x5A) &&
    readsAs [0b01010101, 0x5A] (.eorZpgX 0x5A) &&
    readsAs [0b01011001, 0x34, 0x12] (.eorAbsY 0x1234) &&
    readsAs [0b01011101, 0x34, 0x12] (.eorAbsX 0x1234) &&
    readsAs [0b00100100, 0x5A] (.bitZpg 0x5A) &&
    readsAs [0b00101100, 0x34, 0x12] (.bitAbs 0x1234)) = true := by decide

theorem test_decode_arithmetic_compare_1 :
    (readsAs [0b01100001, 0x5A] (.adcXInd 0x5A) &&
    readsAs [0b01100101, 0x5A] (.adcZpg 0x5A) &&
    readsAs [0b01101001, 0x5A] (.adcImm 0x5A) &&
    readsAs [0b01101101, 0x34, 0x12] (.adcAbs 0x1234) &&
    readsAs [0b01110001, 0x5A] (.adcIndY 0x5A) &&
    readsAs [0b01110101, 0x5A] (.adcZpgX 0x5A) &&
    readsAs [0b01111001, 0x34, 0x12] (.adcAbsY 0x1234) &&
    readsAs [0b01111101, 0x34, 0x12] (.adcAbsX 0x1234) &&
    readsAs [0b11100001, 0x5A] (.sbcXInd 0x5A) &&
    readsAs [0b11100101, 0x5A] (.sbcZpg 0x5A) &&
    readsAs [0b11101001, 0x5A] (.sbcImm 0x5A) &&
    readsAs [0b11101101, 0x34, 0x12] (.sbcAbs 0x1234) &&
    readsAs [0b11110001, 0x5A] (.sbcIndY 0x5A) &&
    readsAs [0b11110101, 0x5A] (.sbcZpgX 0x5A) &&
    readsAs [0b11111001, 0x34, 0x12] (.sbcAbsY 0x1234) &&
    readsAs [0b11111101, 0x34, 0x12] (.sbcAbsX 0x1234)) = true := by decide

theorem test_decode_arithmetic_compare_2 :
    (readsAs [0b11000001, 0x5A] (.cmpXInd 0x5A) &&
    readsAs [0b11000101, 0x5A] (.cmpZpg 0x5A) &&
    readsAs [0b11001001, 0x5A] (.cmpImm 0x5A) &&
    readsAs [0b11001101, 0x34, 0x12] (.cmpAbs 0x1234) &&
    readsAs [0b11010001, 0x5A] (.cmpIndY 0x5A) &&
    readsAs [0b11010101, 0x5A] (.cmpZpgX 0x5A) &&
    readsAs [0b11011001, 0x34, 0x12] (.cmpAbsY 0x1234) &&
    readsAs [0b11011101, 0x34, 0x12] (.cmpAbsX 0x1234) &&
    readsAs [0b11100000, 0x5A] (.cpxImm 0x5A) &&
    readsAs [0b11100100, 0x5A] (.cpxZpg 0x5A) &&
    readsAs [0b11101100, 0x34, 0x12] (.cpxAbs 0x1234) &&
    readsAs [0b11000000, 0x5A] (.cpyImm 0x5A) &&
    readsAs [0b11000100, 0x5A] (.cpyZpg 0x5A) &&
    readsAs [0b11001100, 0x34, 0x12] (.cpyAbs 0x1234)) = true := by decide

theorem test_decode_increment_decrement :
    (readsAs [0b11100110, 0x5A] (.incZpg 0x5A) &&
    readsAs [0b11101110, 0x34, 0x12] (.incAbs 0x1234) &&
    readsAs [0b11110110, 0x5A] (.incZpgX 0x5A) &&
    readsAs [0b11111110, 0x34, 0x12] (.incAbsX 0x1234) &&
    readsAs [0b11000110, 0x5A] (.decZpg 0x5A) &&
    readsAs [0b11001110, 0x34, 0x12] (.decAbs 0x1234) &&
    readsAs [0b11010110, 0x5A] (.decZpgX 0x5A) &&
    readsAs [0b11011110, 0x34, 0x12] (.decAbsX 0x1234) &&
    readsAs [0b11101000] .inx &&
    readsAs [0b11001000] .iny &&
    readsAs [0b11001010] .dex &&
    readsAs [0b10001000] .dey) = true := by decide

theorem test_decode_shift_rotate_1 :
    (readsAs [0b00000110, 0x5A] (.aslZpg 0x5A) &&
    readsAs [0b00001010] .aslAcc &&
    readsAs [0b00001110, 0x34, 0x12] (.aslAbs 0x1234) &&
    readsAs [0b00010110, 0x5A] (.aslZpgX 0x5A) &&
    readsAs [0b00011110, 0x34, 0x12] (.aslAbsX 0x1234) &&
    readsAs [0b01000110, 0x5A] (.lsrZpg 0x5A) &&
    readsAs [0b01001010] .lsrAcc &&
    readsAs [0b01001110, 0x34, 0x12] (.lsrAbs 0x1234) &&
    readsAs [0b01010110, 0x5A] (.lsrZpgX 0x5A) &&
    readsAs [0b01011110, 0x34, 0x12] (.lsrAbsX 0x1234) &&
    readsAs [0b00100110, 0x5A] (.rolZpg 0x5A) &&
    readsAs [0b00101010] .rolAcc &&
    readsAs [0b00101110, 0x34, 0x12] (.rolAbs 0x1234) &&
    readsAs [0b00110110, 0x5A] (.rolZpgX 0x5A) &&
    readsAs [0b00111110, 0x34, 0x12] (.rolAbsX 0x1234) &&
    readsAs [0b01100110, 0x5A] (.rorZpg 0x5A)) = true := by decide

theorem test_decode_shift_rotate_2 :
    (readsAs [0b01101010] .rorAcc &&
    readsAs [0b01101110, 0x34, 0x12] (.rorAbs 0x1234) &&
    readsAs [0b01110110, 0x5A] (.rorZpgX 0x5A) &&
    readsAs [0b01111110, 0x34, 0x12] (.rorAbsX 0x1234)) = true := by decide

theorem test_decode_control :
    (readsAs [0b01001100, 0x34, 0x12] (.jmpAbs 0x1234) &&
    readsAs [0b01101100, 0x34, 0x12] (.jmpInd 0x1234) &&
    readsAs [0b00100000, 0x34, 0x12] (.jsr 0x1234) &&
    readsAs [0b01100000] .rts &&
    readsAs [0b01000000] .rti &&
    readsAs [0b10010000, 0x5A] (.bcc 0x5A) &&
    readsAs [0b10110000, 0x5A] (.bcs 0x5A) &&
    readsAs [0b11110000, 0x5A] (.beq 0x5A) &&
    readsAs [0b00110000, 0x5A] (.bmi 0x5A) &&
    readsAs [0b11010000, 0x5A] (.bne 0x5A) &&
    readsAs [0b00010000, 0x5A] (.bpl 0x5A) &&
    readsAs [0b01010000, 0x5A] (.bvc 0x5A) &&
    readsAs [0b01110000, 0x5A] (.bvs 0x5A)) = true := by decide

theorem test_decode_flags_brk_nop :
    (readsAs [0b00011000] .clc &&
    readsAs [0b00111000] .sec &&
    readsAs [0b01011000] .cli &&
    readsAs [0b01111000] .sei &&
    readsAs [0b11011000] .cld &&
    readsAs [0b11111000] .sed &&
    readsAs [0b10111000] .clv &&
    readsAs [0b00000000] .brk &&
    readsAs [0b11101010] .nop) = true := by decide

/-- Each of the 105 undefined bytes of R99 decodes to the halting row (vector IH11). -/
theorem test_decode_undefined :
    undefinedOpcodes.all (fun op => readsAs [op] (.undefinedHalt op)) = true := by decide

theorem test_decode_rejects_short_bytes :
    decode [] = .reject .noOpcode ∧ decode [0xA9] = .reject (.operandMissing 0xA9) ∧
    decode [0xBD, 0x34] = .reject (.operandMissing 0xBD) := by decide

theorem test_decode_leaves_the_rest :
    decode [0xEA, 0x60] = .ok .nop [0x60] ∧ decode [0xA9, 0x07, 0x02] = .ok (.ldaImm 0x07) [0x02] := by
  decide

theorem test_decodeTableWord :
    decodeTableWord 24 0x1234BD = some (.ldaAbsX 0x1234) ∧
    decodeTableWord 16 0xFED0 = some (.bne 0xFE) ∧ decodeTableWord 8 0x4C = some (.jmpAbs 0) ∧
    decodeTableWord 8 0x02 = some (.undefinedHalt 0x02) := by decide

/-! ### One step each, from spec/95_test_vectors.md -/

/-- The start state of the vectors: power-up values, the given cells, `PC` at an address, nothing
pending. -/
def start (pc : Word) (cells : List Host.Cell) : State :=
  { State.reset with
    pc := pc, pcSet := true, pending := ⟨false, false, false⟩
    mem := cells.foldl (fun m c => m.put c.1 c.2) [] }

/-- Whether the step answers a next state that passes a check. -/
def steps (s : State) (check : State → Bool) : Bool :=
  match step s with
  | .next t => check t
  | .fault _ => false
  | .refused _ => false

/-- A cell of a state. -/
def holds (t : State) (a : Nat) (v : Byte) : Bool := t.mem.byteAt a == some v

/-- Vector S2-corrected. -/
theorem test_jmpInd_reads_the_high_byte_in_the_page :
    steps (start 0x0200 [(0x0200, 0x6C), (0x0201, 0xFF), (0x0202, 0x10), (0x10FF, 0x34), (0x1000, 0x78), (0x1100, 0x12)]) (fun t =>
      t.pc == 0x7834 && t.cycles == 5 &&
      t.busLog.reverse == [.read 0x0200, .read 0x0201, .read 0x0202, .read 0x10FF, .read 0x1000]) = true := by decide

/-- Vector S2-literal. -/
theorem test_jmpInd_literal :
    steps (start 0x1000 [(0x1000, 0x6C), (0x1001, 0xFF), (0x1002, 0x10), (0x10FF, 0x34), (0x1100, 0x12)]) (fun t =>
      t.pc == 0x6C34 && t.cycles == 5 &&
      t.busLog.reverse == [.read 0x1000, .read 0x1001, .read 0x1002, .read 0x10FF, .read 0x1000]) = true := by decide

/-- Vector S3. -/
theorem test_adc_signed_overflow :
    steps { start 0x0200 [(0x0200, 0x69), (0x0201, 0x50)] with a := 0x50 } (fun t =>
      t.a == 0xA0 && t.p == 0xF4 && t.pc == 0x0202 && t.cycles == 2) = true := by decide

/-- Vector S4: the carry of SBC is "no borrow". -/
theorem test_sbc_borrow :
    steps { start 0x0200 [(0x0200, 0xE9), (0x0201, 0xF0)] with a := 0x50, p := 0x35 } (fun t =>
      t.a == 0x60 && t.p == 0x34 && t.cycles == 2) = true := by decide

/-- Vector S5. -/
theorem test_beq_across_a_page :
    steps { start 0x00FB [(0x00FB, 0xF0), (0x00FC, 0x04)] with p := 0x36 } (fun t =>
      t.pc == 0x0101 && t.cycles == 5 && t.busLog.reverse == [.read 0x00FB, .read 0x00FC]) = true := by decide

/-- Vector AM1. -/
theorem test_absX_in_the_page :
    steps { start 0x0200 [(0x0200, 0xBD), (0x0201, 0x00), (0x0202, 0x10), (0x1001, 0x00)] with
        x := 0x01 } (fun t =>
      t.a == 0x00 && t.p == 0x36 && t.pc == 0x0203 && t.cycles == 4 &&
      t.busLog.reverse == [.read 0x0200, .read 0x0201, .read 0x0202, .read 0x1001]) = true := by decide

/-- Vector AM2. -/
theorem test_absX_across_a_page :
    steps { start 0x0200 [(0x0200, 0xBD), (0x0201, 0xFF), (0x0202, 0x10), (0x1100, 0x80)] with
        x := 0x01 } (fun t =>
      t.a == 0x80 && t.p == 0xB4 && t.cycles == 5 &&
      t.busLog.reverse == [.read 0x0200, .read 0x0201, .read 0x0202, .read 0x1100]) = true := by decide

/-- Vector AM3, on LDY. -/
theorem test_ldy_absX_wraps_at_16_bits :
    steps { start 0x0200 [(0x0200, 0xBC), (0x0201, 0xFF), (0x0202, 0xFF), (0x0000, 0x55)] with
        x := 0x01 } (fun t =>
      t.y == 0x55 && t.p == 0x34 && t.cycles == 5 &&
      t.busLog.reverse == [.read 0x0200, .read 0x0201, .read 0x0202, .read 0x0000]) = true := by decide

/-- Vector LA16. -/
theorem test_cmp_indY_across_a_page :
    steps { start 0x0200 [(0x0200, 0xD1), (0x0201, 0x10), (0x0010, 0xF8), (0x0011, 0x20), (0x2108, 0x05)] with
        a := 0x05, y := 0x10 } (fun t =>
      t.p == 0x37 && t.cycles == 6) = true := by decide

/-- Vector AM5, on ORA with `A = 0`. -/
theorem test_ora_indY_pointer_wraps :
    steps (start 0x0200 [(0x0200, 0x11), (0x0201, 0xFF), (0x00FF, 0x00), (0x0000, 0x30), (0x0100, 0x99), (0x3000, 0x77)]) (fun t =>
      t.a == 0x77 && t.cycles == 5 &&
      t.busLog.reverse == [.read 0x0200, .read 0x0201, .read 0x00FF, .read 0x0000, .read 0x3000]) = true := by decide

/-- Vector AM6, on EOR with `A = 0`. -/
theorem test_eor_xInd_pointer_wraps :
    steps { start 0x0200 [(0x0200, 0x41), (0x0201, 0xFE), (0x00FF, 0x34), (0x0000, 0x12), (0x1234, 0xAB)] with
        x := 0x01 } (fun t =>
      t.a == 0xAB && t.p == 0xB4 && t.cycles == 6 &&
      t.busLog.reverse == [.read 0x0200, .read 0x0201, .read 0x00FF, .read 0x0000, .read 0x1234]) = true := by decide

/-- Vector AM7. -/
theorem test_ldx_zpgY_wraps :
    steps { start 0x0200 [(0x0200, 0xB6), (0x0201, 0xF0), (0x0010, 0x00)] with y := 0x20 } (fun t =>
      t.x == 0x00 && t.p == 0x36 && t.cycles == 4 &&
      t.busLog.reverse == [.read 0x0200, .read 0x0201, .read 0x0010]) = true := by decide

/-- Vector AM8. -/
theorem test_asl_zpgX_wraps :
    steps { start 0x0200 [(0x0200, 0x16), (0x0201, 0xFF), (0x0001, 0x81)] with x := 0x02 } (fun t =>
      holds t 0x0001 0x02 && t.p == 0x35 && t.cycles == 6 &&
      t.busLog.reverse == [.read 0x0200, .read 0x0201, .read 0x0001, .write 0x0001 0x02]) = true := by decide

/-- Vector AM9. -/
theorem test_sta_absX_pays_no_page_cross :
    steps { start 0x0200 [(0x0200, 0x9D), (0x0201, 0xFF), (0x0202, 0x10)] with
        x := 0x01, a := 0x42 } (fun t =>
      holds t 0x1100 0x42 && t.cycles == 5 &&
      t.busLog.reverse == [.read 0x0200, .read 0x0201, .read 0x0202, .write 0x1100 0x42]) = true := by decide

/-- Vector AM10. -/
theorem test_inc_absX_pays_no_page_cross :
    steps { start 0x0200 [(0x0200, 0xFE), (0x0201, 0xFF), (0x0202, 0x10), (0x1100, 0xFF)] with
        x := 0x01 } (fun t =>
      holds t 0x1100 0x00 && t.p == 0x36 && t.cycles == 7 &&
      t.busLog.reverse == [.read 0x0200, .read 0x0201, .read 0x0202, .read 0x1100, .write 0x1100 0x00]) = true := by decide

/-- Vector AM12. -/
theorem test_ror_acc :
    steps { start 0x0200 [(0x0200, 0x6A)] with a := 0x01, p := 0x35 } (fun t =>
      t.a == 0x80 && t.p == 0xB5 && t.cycles == 2 && t.busLog.reverse == [.read 0x0200]) = true := by decide

/-- Vector AM13. -/
theorem test_pc_wraps_in_a_fetch :
    steps (start 0xFFFF [(0xFFFF, 0xA9), (0x0000, 0x07)]) (fun t =>
      t.a == 0x07 && t.pc == 0x0001 && t.cycles == 2 &&
      t.busLog.reverse == [.read 0xFFFF, .read 0x0000]) = true := by decide

/-- Vector LS2. -/
theorem test_ldx_zpg :
    steps { start 0x0200 [(0x0200, 0xA6), (0x0201, 0x10), (0x0010, 0x00)] with x := 0x55 } (fun t =>
      t.x == 0x00 && t.p == 0x36 && t.cycles == 3) = true := by decide

/-- Vector LS3. -/
theorem test_ldy_absX :
    steps { start 0x0200 [(0x0200, 0xBC), (0x0201, 0x00), (0x0202, 0x03), (0x0305, 0x7F)] with
        x := 0x05 } (fun t =>
      t.y == 0x7F && t.p == 0x34 && t.cycles == 4) = true := by decide

/-- Vector LS5. -/
theorem test_stx_zpgY_keeps_flags :
    steps { start 0x0200 [(0x0200, 0x96), (0x0201, 0x10)] with x := 0x99, y := 0x01 } (fun t =>
      holds t 0x0011 0x99 && t.p == 0x34 && t.cycles == 4) = true := by decide

/-- Vector LS6. -/
theorem test_sty_abs_keeps_flags :
    steps { start 0x0200 [(0x0200, 0x8C), (0x0201, 0x00), (0x0202, 0x04)] with y := 0x00 } (fun t =>
      holds t 0x0400 0x00 && t.p == 0x34 && t.cycles == 4) = true := by decide

/-- Vector LS7. -/
theorem test_sta_indY :
    steps { start 0x0200 [(0x0200, 0x91), (0x0201, 0x10), (0x0010, 0xF8), (0x0011, 0x20)] with
        a := 0x5A, y := 0x10 } (fun t =>
      holds t 0x2108 0x5A && t.cycles == 6) = true := by decide

/-- Vector TS1. -/
theorem test_tax :
    steps { start 0x0200 [(0x0200, 0xAA)] with a := 0x00, x := 0x33 } (fun t =>
      t.x == 0x00 && t.p == 0x36 && t.cycles == 2) = true := by decide

/-- Vector TS2. -/
theorem test_tsx :
    steps { start 0x0200 [(0x0200, 0xBA)] with sp := 0x80 } (fun t =>
      t.x == 0x80 && t.p == 0xB4 && t.cycles == 2) = true := by decide

/-- Vector TS3. -/
theorem test_txs_keeps_flags :
    steps { start 0x0200 [(0x0200, 0x9A)] with x := 0x00 } (fun t =>
      t.sp == 0x00 && t.p == 0x34 && t.cycles == 2) = true := by decide

/-- Vector TS4. -/
theorem test_tya :
    steps { start 0x0200 [(0x0200, 0x98)] with y := 0xFF } (fun t =>
      t.a == 0xFF && t.p == 0xB4 && t.cycles == 2) = true := by decide

/-- Vector TS5. -/
theorem test_pha_wraps :
    steps { start 0x0200 [(0x0200, 0x48)] with a := 0x77, sp := 0x00 } (fun t =>
      holds t 0x0100 0x77 && t.sp == 0xFF && t.cycles == 3 &&
      t.busLog.reverse == [.read 0x0200, .write 0x0100 0x77]) = true := by decide

/-- Vector TS6. -/
theorem test_pla_wraps :
    steps { start 0x0200 [(0x0200, 0x68), (0x0100, 0x80)] with sp := 0xFF } (fun t =>
      t.a == 0x80 && t.sp == 0x00 && t.p == 0xB4 && t.cycles == 4 &&
      t.busLog.reverse == [.read 0x0200, .read 0x0100]) = true := by decide

/-- Vector TS7. -/
theorem test_php_pushes_P_as_stored :
    steps { start 0x0200 [(0x0200, 0x08)] with p := 0x24 } (fun t =>
      holds t 0x01FD 0x24 && t.sp == 0xFC && t.cycles == 3 &&
      t.busLog.reverse == [.read 0x0200, .write 0x01FD 0x24]) = true := by decide

/-- Vector TS8. -/
theorem test_plp_forces_U :
    steps (start 0x0200 [(0x0200, 0x28), (0x01FE, 0x00)]) (fun t =>
      t.p == 0x20 && t.sp == 0xFE && t.cycles == 4 &&
      t.busLog.reverse == [.read 0x0200, .read 0x01FE]) = true := by decide

/-- Vector TS9. -/
theorem test_plp_stores_B_and_D :
    steps (start 0x0200 [(0x0200, 0x28), (0x01FE, 0xFF)]) (fun t =>
      t.p == 0xFF && t.cycles == 4) = true := by decide

/-- Vector LA1. -/
theorem test_and :
    steps { start 0x0200 [(0x0200, 0x29), (0x0201, 0x00)] with a := 0xFF } (fun t =>
      t.a == 0x00 && t.p == 0x36 && t.cycles == 2) = true := by decide

/-- Vector LA4. -/
theorem test_bit_takes_N_and_V_from_M :
    steps { start 0x0200 [(0x0200, 0x24), (0x0201, 0x10), (0x0010, 0xC0)] with a := 0x00 } (fun t =>
      t.a == 0x00 && t.p == 0xF6 && t.cycles == 3) = true := by decide

/-- Vector LA10. -/
theorem test_adc_ignores_D :
    steps { start 0x0200 [(0x0200, 0x69), (0x0201, 0x01)] with a := 0x09, p := 0x3C } (fun t =>
      t.a == 0x0A && t.p == 0x3C && t.cycles == 2) = true := by decide

/-- Vector LA12. -/
theorem test_sbc_borrows_in :
    steps { start 0x0200 [(0x0200, 0xE9), (0x0201, 0x03)] with a := 0x05, p := 0x34 } (fun t =>
      t.a == 0x01 && t.p == 0x35 && t.cycles == 2) = true := by decide

/-- Vector LA15. -/
theorem test_cmp_less :
    steps { start 0x0200 [(0x0200, 0xC9), (0x0201, 0x20)] with a := 0x10 } (fun t =>
      t.p == 0xB4 && t.cycles == 2) = true := by decide

/-- Vector LA17. -/
theorem test_cpx_keeps_V :
    steps { start 0x0200 [(0x0200, 0xE0), (0x0201, 0x05)] with x := 0x05, p := 0x74 } (fun t =>
      t.p == 0x77 && t.cycles == 2) = true := by decide

/-- Vector LA18. -/
theorem test_cpy_less :
    steps { start 0x0200 [(0x0200, 0xC0), (0x0201, 0x10)] with y := 0x0F } (fun t =>
      t.p == 0xB4 && t.cycles == 2) = true := by decide

/-- Vector IS1. -/
theorem test_inc_keeps_C :
    steps { start 0x0200 [(0x0200, 0xE6), (0x0201, 0x10), (0x0010, 0xFF)] with p := 0x35 } (fun t =>
      holds t 0x0010 0x00 && t.p == 0x37 && t.cycles == 5) = true := by decide

/-- Vector IS2. -/
theorem test_dec_wraps :
    steps (start 0x0300 [(0x0300, 0xCE), (0x0301, 0x00), (0x0302, 0x02), (0x0200, 0x00)]) (fun t =>
      holds t 0x0200 0xFF && t.p == 0xB4 && t.cycles == 6) = true := by decide

/-- Vector IS3. -/
theorem test_inx_to_zero :
    steps { start 0x0200 [(0x0200, 0xE8)] with x := 0xFF } (fun t =>
      t.x == 0x00 && t.p == 0x36 && t.cycles == 2) = true := by decide

/-- Vector IS4. -/
theorem test_dey_wraps :
    steps { start 0x0200 [(0x0200, 0x88)] with y := 0x00 } (fun t =>
      t.y == 0xFF && t.p == 0xB4 && t.cycles == 2) = true := by decide

/-- Vector IS5. -/
theorem test_asl_acc :
    steps { start 0x0200 [(0x0200, 0x0A)] with a := 0x80 } (fun t =>
      t.a == 0x00 && t.p == 0x37 && t.cycles == 2) = true := by decide

/-- Vector IS6. -/
theorem test_lsr_zpg :
    steps (start 0x0200 [(0x0200, 0x46), (0x0201, 0x10), (0x0010, 0x01)]) (fun t =>
      holds t 0x0010 0x00 && t.p == 0x37 && t.cycles == 5) = true := by decide

/-- Vector IS7. -/
theorem test_rol_acc :
    steps { start 0x0200 [(0x0200, 0x2A)] with a := 0x80, p := 0x35 } (fun t =>
      t.a == 0x01 && t.p == 0x35 && t.cycles == 2) = true := by decide

/-- Vector IS8. -/
theorem test_ror_abs :
    steps { start 0x0200 [(0x0200, 0x6E), (0x0201, 0x00), (0x0202, 0x03), (0x0300, 0x02)] with
        p := 0x35 } (fun t =>
      holds t 0x0300 0x81 && t.p == 0xB4 && t.cycles == 6) = true := by decide

/-- Vector IS9. -/
theorem test_rol_absX_pays_no_page_cross :
    steps { start 0x0200 [(0x0200, 0x3E), (0x0201, 0xFF), (0x0202, 0x10), (0x1100, 0x40)] with
        x := 0x01 } (fun t =>
      holds t 0x1100 0x80 && t.p == 0xB4 && t.cycles == 7) = true := by decide

/-- Vector CT1. -/
theorem test_jmp_abs :
    steps (start 0x0200 [(0x0200, 0x4C), (0x0201, 0xF5), (0x0202, 0xC5)]) (fun t =>
      t.pc == 0xC5F5 && t.cycles == 3 &&
      t.busLog.reverse == [.read 0x0200, .read 0x0201, .read 0x0202]) = true := by decide

/-- Vector CT2. -/
theorem test_jsr_at_the_top :
    steps (start 0xFFFD [(0xFFFD, 0x20), (0xFFFE, 0x00), (0xFFFF, 0x40)]) (fun t =>
      t.pc == 0x4000 && t.sp == 0xFB && holds t 0x01FD 0xFF && holds t 0x01FC 0xFF &&
      t.cycles == 6 &&
      t.busLog.reverse == [.read 0xFFFD, .read 0xFFFE, .read 0xFFFF, .write 0x01FD 0xFF, .write 0x01FC 0xFF]) = true := by decide

/-- Vector CT3. -/
theorem test_rts_wraps :
    steps { start 0x0200 [(0x0200, 0x60), (0x01FC, 0xFF), (0x01FD, 0xFF)] with
        sp := 0xFB } (fun t =>
      t.pc == 0x0000 && t.sp == 0xFD && t.cycles == 6 &&
      t.busLog.reverse == [.read 0x0200, .read 0x01FC, .read 0x01FD]) = true := by decide

/-- Vector CT4. -/
theorem test_rti_adds_nothing :
    steps { start 0x0200 [(0x0200, 0x40), (0x01FB, 0xC3), (0x01FC, 0x00), (0x01FD, 0x12)] with
        sp := 0xFA } (fun t =>
      t.pc == 0x1200 && t.p == 0xE3 && t.sp == 0xFD && t.cycles == 6 &&
      t.busLog.reverse == [.read 0x0200, .read 0x01FB, .read 0x01FC, .read 0x01FD]) = true := by decide

/-- Vector CT5. -/
theorem test_beq_not_taken_reads_no_offset :
    steps { start 0x0200 [(0x0200, 0xF0), (0x0201, 0x10)] with p := 0x34 } (fun t =>
      t.pc == 0x0202 && t.cycles == 2 && t.busLog.reverse == [.read 0x0200]) = true := by decide

/-- Vector CT6. -/
theorem test_bmi_taken :
    steps { start 0x0200 [(0x0200, 0x30), (0x0201, 0x10)] with p := 0xB4 } (fun t =>
      t.pc == 0x0212 && t.cycles == 3 && t.busLog.reverse == [.read 0x0200, .read 0x0201]) = true := by decide

/-- Vector CT7. -/
theorem test_bne_back_across_a_page :
    steps { start 0x0205 [(0x0205, 0xD0), (0x0206, 0xF0)] with p := 0x34 } (fun t =>
      t.pc == 0x01F7 && t.cycles == 5 && t.busLog.reverse == [.read 0x0205, .read 0x0206]) = true := by decide

/-- Vector CT8. -/
theorem test_bpl_to_itself :
    steps { start 0x8000 [(0x8000, 0x10), (0x8001, 0xFE)] with p := 0x34 } (fun t =>
      t.pc == 0x8000 && t.cycles == 3 && t.busLog.reverse == [.read 0x8000, .read 0x8001]) = true := by decide

/-- Vector CT9. -/
theorem test_bvc_across_the_top :
    steps { start 0xFFF0 [(0xFFF0, 0x50), (0xFFF1, 0x7F)] with p := 0x34 } (fun t =>
      t.pc == 0x0071 && t.cycles == 5 && t.busLog.reverse == [.read 0xFFF0, .read 0xFFF1]) = true := by decide

/-- Vector FM1. -/
theorem test_sec :
    steps (start 0x0200 [(0x0200, 0x38)]) (fun t =>
      t.p == 0x35 && t.cycles == 2) = true := by decide

/-- Vector FM1. -/
theorem test_clc :
    steps { start 0x0200 [(0x0200, 0x18)] with p := 0x35 } (fun t =>
      t.p == 0x34 && t.cycles == 2) = true := by decide

/-- Vector FM2. -/
theorem test_sed :
    steps (start 0x0200 [(0x0200, 0xF8)]) (fun t =>
      t.p == 0x3C && t.cycles == 2) = true := by decide

/-- Vector FM2. -/
theorem test_cld :
    steps { start 0x0200 [(0x0200, 0xD8)] with p := 0x3C } (fun t =>
      t.p == 0x34 && t.cycles == 2) = true := by decide

/-- Vector FM3. -/
theorem test_clv :
    steps { start 0x0200 [(0x0200, 0xB8)] with p := 0x74 } (fun t =>
      t.p == 0x34 && t.cycles == 2 && t.busLog.reverse == [.read 0x0200]) = true := by decide

/-- Vector FM4. -/
theorem test_brk :
    steps { start 0x0200 [(0x0200, 0x00), (0xFFFE, 0x00), (0xFFFF, 0x90)] with p := 0x30 } (fun t =>
      t.pc == 0x9000 && t.sp == 0xFA && t.p == 0x34 && holds t 0x01FD 0x02 &&
      holds t 0x01FC 0x01 && holds t 0x01FB 0x30 && t.cycles == 7 &&
      t.busLog.reverse == [.read 0x0200, .write 0x01FD 0x02, .write 0x01FC 0x01, .write 0x01FB 0x30, .read 0xFFFE, .read 0xFFFF]) = true := by decide

/-- Vector FM5. -/
theorem test_brk_clears_IRQ :
    steps { start 0x0200 [(0x0200, 0x00), (0xFFFE, 0x00), (0xFFFF, 0x90)] with
        p := 0x34, pending := ⟨false, false, true⟩ } (fun t =>
      holds t 0x01FB 0x34 && t.pending == ⟨false, false, false⟩ && t.cycles == 7) = true := by decide

/-- Vector FM6. -/
theorem test_nop :
    steps (start 0x0200 [(0x0200, 0xEA)]) (fun t =>
      t.pc == 0x0201 && t.p == 0x34 && t.cycles == 2 && t.busLog.reverse == [.read 0x0200]) = true := by decide

/-- Vector IH1. -/
theorem test_irq_gated :
    steps { start 0x0200 [(0x0200, 0xEA)] with
        p := 0x34, pending := ⟨false, false, true⟩ } (fun t =>
      t.pc == 0x0201 && t.pending == ⟨false, false, true⟩ && t.cycles == 2) = true := by decide

/-- Vector IH2. -/
theorem test_irq_taken :
    steps { start 0x0200 [(0xFFFE, 0x00), (0xFFFF, 0x90)] with
        p := 0x30, pending := ⟨false, false, true⟩ } (fun t =>
      t.pc == 0x9000 && t.sp == 0xFA && holds t 0x01FD 0x02 && holds t 0x01FC 0x00 &&
      holds t 0x01FB 0x20 && t.p == 0x34 && t.pending == ⟨false, false, false⟩ && t.cycles == 7 &&
      t.busLog.reverse == [.write 0x01FD 0x02, .write 0x01FC 0x00, .write 0x01FB 0x20, .read 0xFFFE, .read 0xFFFF]) = true := by decide

/-- Vector IH3. -/
theorem test_nmi_with_I_set :
    steps { start 0x0200 [(0xFFFA, 0x00), (0xFFFB, 0xA0)] with
        p := 0x34, pending := ⟨true, false, true⟩ } (fun t =>
      t.pc == 0xA000 && holds t 0x01FD 0x02 && holds t 0x01FC 0x00 && holds t 0x01FB 0x24 &&
      t.pending == ⟨false, false, true⟩ && t.cycles == 7) = true := by decide

/-- Vector IH4, its first step. -/
theorem test_nmi_before_reset :
    steps { start 0x0200 [(0xFFFA, 0x00), (0xFFFB, 0xA0)] with
        pending := ⟨true, true, false⟩ } (fun t =>
      t.pc == 0xA000 && t.sp == 0xFA && t.pending == ⟨false, true, false⟩ && t.cycles == 7) = true := by decide

/-- Vector IH5. -/
theorem test_irq_pushes_B_without_hwPushClearsB :
    steps { start 0x0200 [(0xFFFE, 0x00), (0xFFFF, 0x90)] with
        p := 0x30, pending := ⟨false, false, true⟩, params := ⟨false, false, [], []⟩ } (fun t =>
      holds t 0x01FB 0x30 && t.cycles == 7) = true := by decide

/-- Vector IH6. -/
theorem test_undefined_byte_halts :
    steps (start 0x0200 [(0x0200, 0x02)]) (fun t =>
      t.run == .halted && t.pc == 0x0201 && t.p == 0x34 && t.cycles == 0 &&
      t.busLog.reverse == [.read 0x0200]) = true := by decide

/-- Vector IH7. -/
theorem test_halted_step :
    steps { start 0x0200 [] with
        run := .halted, pending := ⟨true, false, false⟩, busLog := [] } (fun t =>
      t.pc == 0x0200 && t.pending == ⟨true, false, false⟩ && t.cycles == 0) = true := by decide

/-- Scenario S1, its first step: no vector byte is read. -/
theorem test_resetOverrideC000 :
    steps { start 0x0200 [] with
        pcSet := false, pending := ⟨false, true, false⟩, params := ⟨true, true, [], []⟩ } (fun t =>
      t.pc == 0xC000 && t.p == 0x34 && t.sp == 0xFD && t.busLog == [] && t.cycles == 7) = true := by decide

/-- The example of R182. -/
theorem test_tay :
    steps { start 0x0200 [(0x0200, 0xA8)] with a := 0x01 } (fun t =>
      t.y == 0x01 && t.p == 0x34 && t.cycles == 2) = true := by decide

/-- The example of R183. -/
theorem test_txa :
    steps { start 0x0200 [(0x0200, 0x8A)] with a := 0x12, x := 0x00 } (fun t =>
      t.a == 0x00 && t.p == 0x36 && t.cycles == 2) = true := by decide

/-- The example of R234. -/
theorem test_iny :
    steps { start 0x0200 [(0x0200, 0xC8)] with y := 0x00 } (fun t =>
      t.y == 0x01 && t.p == 0x34 && t.cycles == 2) = true := by decide

/-- The example of R235. -/
theorem test_dex :
    steps { start 0x0200 [(0x0200, 0xCA)] with x := 0x05 } (fun t =>
      t.x == 0x04 && t.p == 0x34 && t.cycles == 2) = true := by decide

/-- The example of R271. -/
theorem test_bcc_taken :
    steps { start 0x0200 [(0x0200, 0x90), (0x0201, 0x10)] with p := 0x34 } (fun t =>
      t.pc == 0x0212 && t.cycles == 3) = true := by decide

/-- The example of R272. -/
theorem test_bcs_back_across_a_page :
    steps { start 0x0250 [(0x0250, 0xB0), (0x0251, 0x80)] with p := 0x35 } (fun t =>
      t.pc == 0x01D2 && t.cycles == 5) = true := by decide

/-- The example of R278. -/
theorem test_bvs_not_taken :
    steps { start 0x0400 [(0x0400, 0x70), (0x0401, 0x02)] with p := 0x34 } (fun t =>
      t.pc == 0x0402 && t.cycles == 2 && t.busLog.reverse == [.read 0x0400]) = true := by decide

/-- The example of R293. -/
theorem test_cli :
    steps { start 0x0200 [(0x0200, 0x58)] with p := 0x34 } (fun t =>
      t.p == 0x30 && t.cycles == 2) = true := by decide

/-- The example of R294. -/
theorem test_sei :
    steps { start 0x0200 [(0x0200, 0x78)] with p := 0x30 } (fun t =>
      t.p == 0x34 && t.cycles == 2) = true := by decide

/-- Vector IH8: `reset()` and `Request(RESET)` from Halted, then the step. -/
theorem test_reset_from_halted :
    let s := request .reset (hostReset { start 0x0200 [(0xFFFC, 0x00), (0xFFFD, 0x80)] with
      run := .halted, p := 0x30, a := 0x12 })
    (s.sp == 0xFA && s.run == .running && s.p == 0x34 &&
      steps s (fun t => t.sp == 0xFA && t.p == 0x34 && t.a == 0x12 && t.pc == 0x8000 &&
        t.cycles == 7)) = true := by decide

/-- Vector IH9: the boot step from the launch state. -/
theorem test_boot :
    steps { State.reset with mem := [(0xFFFC, 0x00), (0xFFFD, 0x80)] } (fun t =>
      t.pc == 0x8000 && t.pcSet && t.p == 0x34 && t.sp == 0xFD && t.cycles == 7) = true := by decide

/-- Vector IH10: no RESET requested at power-up. -/
theorem test_no_reset_at_boot :
    step { State.reset with pending := ⟨false, false, false⟩ } = .fault .pcUnset := rfl

/-- `power_cycle()` (R350), from a halted state. -/
theorem test_power_cycle :
    let s := powerCycle { start 0x0200 [(0x0010, 0x55)] with run := .halted, a := 7, cycles := 9 }
    (!s.pcSet && s.sp == 0xFD && s.a == 0 && s.p == 0x34 && s.run == .running && s.cycles == 0 &&
      holds s 0x0010 0x55) = true := by decide

/-- An instruction placed for the next step is what that step runs, from reset. -/
theorem test_withFetchWord :
    steps (State.reset.withFetchWord 16 0x80A9) (fun t => t.a == 0x80) = true ∧
    steps (State.reset.withFetchWord 24 0x12344C) (fun t => t.pc == 0x1234) = true ∧
    steps (State.reset.withFetchWord 8 0x02) (fun t => t.run == .halted) = true := by decide

/-- A trace line (R338): the published layout of the first lines of a nestest run. -/
theorem test_trace :
    (traceOf { start 0xC000 [(0xC000, 0x4C), (0xC001, 0xF5), (0xC002, 0xC5)] with
      cycles := 7 }).map (fun l => (l.pc, l.bytes, l.mnemonic, l.sp, l.cyc)) =
    some (0xC000, [0x4C, 0xF5, 0xC5], .jmp, 0xFD, 7) := by decide

/-- The halt warning (R330) is emitted by the halting step only. -/
theorem test_halt_warning :
    haltWarningOf (start 0x0200 [(0x0200, 0x02)]) = some (0x0200, 0x02) ∧
    haltWarningOf (start 0x0200 [(0x0200, 0xEA)]) = none ∧
    traceOf (start 0x0200 [(0x0200, 0x02)]) = none := by decide

/-- The memory's canonical form is kept by writes in any order, and each address holds its last. -/
theorem test_memory :
    let m := ((Memory.put [] 5 1).put 3 2).put 5 9
    m = [(3, 2), (5, 9)] ∧ m.wf := by decide

theorem test_reset_invariant : Invariant State.reset := by unfold Invariant; decide

/-! ### Witnesses: for every statement with hypotheses, states and operands that meet them all -/

/-- A state about to run an instruction whose bytes are given, at `0x0200`. -/
def ready (bs : List Byte) : State :=
  start 0x0200 ((bs.zipIdx).map (fun e => (0x0200 + e.2, e.1)))

/-- A state with devices at `0x4000` and `0x4001`. -/
def withDevice : State := { ready [0xEA] with routes := [⟨0x4000, 2, .device⟩] }

/-- A bus with 2 KiB of RAM mirrored up to `0x1FFF`, devices up to `0x3FFF`, and 16 KiB of ROM seen twice
from `0x8000`; the devices' state is `[1]`. -/
def console : State :=
  { ready [0xEA] with
    routes := [⟨0, 0x2000, .cells 0 0x800 true⟩, ⟨0x2000, 0x2000, .device⟩,
      ⟨0x8000, 0x8000, .cells 0x8000 0x4000 false⟩]
    devices := [1] }

/-- Where accesses lead, at the ends of the routes (R62). -/
theorem test_routes :
    placeOf console 0x07FF = .cell 0x07FF true ∧ placeOf console 0x1FFF = .cell 0x07FF true ∧
    placeOf console 0x2000 = .device ∧ placeOf console 0x3FFF = .device ∧
    placeOf console 0x4000 = .cell 0x4000 true ∧ placeOf console 0x7FFF = .cell 0x7FFF true ∧
    placeOf console 0xC000 = .cell 0x8000 false ∧ placeOf console 0xFFFF = .cell 0xBFFF false := by
  decide

/-- A write to RAM is seen at its mirrors, one to ROM nowhere. -/
theorem test_mirror_and_rom :
    peek (memWrite 0x0805 7 console) 0x0005 = some 7 ∧
    peek (memWrite 0x0805 7 console) 0x1805 = some 7 ∧
    (memWrite 0xC000 7 console).mem = console.mem := by decide

/-- A given device: reading it answers from its state, moves its state and asserts a line (R60). -/
theorem test_given_device (h : Config.bus.read [1] 0x2002 = (0x80, [0], fun k => k == .nmi)) :
    ∃ t, exec (.ldaAbs 0x2002) console = .next t ∧ t.a = 0x80 ∧ t.devices = [0] ∧
      t.pending = ⟨true, false, false⟩ := by
  have hv : readByte 0x2002 console = 0x80 := (congrArg Prod.fst h :)
  have hd : devicesAfter (.read 0x2002) console = [0] := (congrArg (fun r => r.2.1) h :)
  have hp : pendingAfter (.read 0x2002) console = ⟨true, false, false⟩ :=
    (congrArg (fun r => (console.pending).addAll r.2.2) h :)
  exact ⟨_, rfl, hv, hd, hp⟩

theorem witness_DecodeOfEncodeIsTheInstruction :
    (Instr.ldaAbsX 0xFFFF).wf = true ∧ (Instr.undefinedHalt 0xFF).wf = true := by decide

theorem witness_EncodeOfDecodeIsTheBytes :
    decode [0xBD, 0x34, 0x12, 0xEA] = .ok (.ldaAbsX 0x1234) [0xEA] ∧
    decode [0x02] = .ok (.undefinedHalt 0x02) [] := by decide

theorem witness_PageCrossFlagIsOnIndexedReads :
    (Instr.ldaIndY 0xFF).wf = true ∧ (Instr.staIndY 0x00).wf = true := by decide

theorem witness_PassedOverOperandIsTheBusAnswer :
    (nextInstr (ready [0xA9, 0x80])).mode = .imm ∧
    (nextInstr (ready [0xD0, 0xFB])).mode = .rel := by decide

theorem witness_OperandReadsChangeOnlyTheBusRecord :
    (request .irq (ready [])).pending.has .irq = true ∧ (ready []).routes = [] := by decide

theorem witness_LoadsWriteRegisterAndZN :
    (Instr.ldaIndY 0xFF).mnemonic = .lda ∧ (Instr.ldxZpgY 0xFF).mnemonic = .ldx ∧
    (Instr.ldyAbsX 0xFFFF).mnemonic = .ldy := by decide

theorem witness_StoresWriteTheTarget :
    (Instr.staIndY 0xFF).mnemonic = .sta ∧ (Instr.stxZpgY 0xFF).mnemonic = .stx ∧
    (Instr.styAbs 0xFFFF).mnemonic = .sty := by decide

theorem witness_PullOfPushedWordIsTheWord : StackIsMemory (ready []) ∧ StackIsMemory console :=
  ⟨⟨0x0100, by decide⟩, 0x0100, by decide⟩

theorem witness_LogicalOpsWriteAAndZN :
    (Instr.andImm 0).mnemonic = .and ∧ (Instr.oraXInd 0xFF).mnemonic = .ora ∧
    (Instr.eorAbsY 0xFFFF).mnemonic = .eor := by decide

theorem witness_BitTestsTheOperand : (Instr.bitAbs 0x4000).mnemonic = .bit := by decide

theorem witness_AdcAndSbcAddWithCarry :
    (Instr.adcImm 0xFF).mnemonic = .adc ∧ (Instr.sbcIndY 0).mnemonic = .sbc := by decide

theorem witness_ComparesSetCZN :
    (Instr.cmpImm 0).mnemonic = .cmp ∧ (Instr.cpxZpg 0xFF).mnemonic = .cpx ∧
    (Instr.cpyAbs 0xFFFF).mnemonic = .cpy := by decide

theorem witness_IncAndDecOfMemory :
    (Instr.incAbsX 0xFFFF).mnemonic = .inc ∧ (Instr.decZpg 0).mnemonic = .dec := by decide

theorem witness_ShiftsAndRotates :
    Instr.aslAcc.mnemonic = .asl ∧ (Instr.lsrZpgX 0xFF).mnemonic = .lsr ∧
    (Instr.rolAbsX 0xFFFF).mnemonic = .rol ∧ Instr.rorAcc.mnemonic = .ror := by decide

/-- Both ways of a branch, for a flag that is clear and one that is set. -/
theorem witness_BranchesTestTheirFlag :
    getFlag .C (ready []).p = false ∧ getFlag .I (ready []).p = true ∧
    getFlag .C 0x35 = true ∧ getFlag .Z 0x36 = true ∧ getFlag .V 0x74 = true ∧
    getFlag .N 0xB4 = true := by decide

theorem witness_BrkTakesTheIrqPath :
    (ready [0x00]).pcSet = true ∧ State.reset.pcSet = false := by decide

theorem witness_IrqGateAtStepEntry :
    let s := request .irq (ready [0xEA])
    s.run = .running ∧ s.pending.get = some .irq ∧ getFlag .I s.p = true ∧ s.pcSet = true ∧
    getFlag .I { s with p := 0x30 }.p = false ∧
    (∃ t, step s = .next t ∧ (nextInstr s).mnemonic ≠ .brk) :=
  ⟨rfl, rfl, rfl, rfl, rfl, _, rfl, by decide⟩

theorem witness_NmiAndResetAreNeverBlocked :
    let s := request .nmi (ready [])
    s.run = .running ∧ s.pending.nmi = true ∧
    (request .reset (ready [])).pending.nmi = false ∧ State.reset.pending.reset = true ∧
    (∃ t, serviceInterrupt .nmi false (request .irq s) = .next t ∧ (Line.irq ≠ .nmi) ∧
      (request .irq s).pending.has .irq = true) :=
  ⟨rfl, rfl, rfl, rfl, _, rfl, by decide, rfl⟩

theorem witness_ServicePath :
    (ready []).pcSet = true ∧ State.reset.pcSet = false ∧
    State.reset.params.resetOverrideC000 = false ∧
    ({ State.reset with params := ⟨true, true, [], []⟩ }).params.resetOverrideC000 = true := by
  decide

/-- At the ends of the stack page too: `S = 0x00` wraps within the frame. -/
theorem witness_ServiceLeavesFrameOnTheStack :
    let s := { ready [] with sp := 0x00 }
    Line.irq ≠ .reset ∧ StackIsMemory s ∧ ∃ t, serviceInterrupt .irq false s = .next t :=
  ⟨by decide, ⟨0x0100, by decide⟩, _, rfl⟩

theorem witness_RtiUndoesAService :
    let s := { ready [] with sp := 0x01 }
    Line.nmi ≠ .reset ∧ StackIsMemory s ∧ ∃ t u, serviceInterrupt .nmi false s = .next t ∧
      u.sp = t.sp ∧ ∀ n : Byte, n = 1 ∨ n = 2 ∨ n = 3 →
        peek u (stackAddr (u.sp + n)) = peek t (stackAddr (t.sp + n)) :=
  ⟨by decide, ⟨0x0100, by decide⟩, _, _, rfl, rfl, fun _ _ => rfl⟩

theorem witness_FlagIActsAtTheNextStep :
    let s := request .irq (ready [])
    (∃ t, exec .cli s = .next t ∧ t.run = .running ∧ t.pending.get = some .irq) ∧
    (∃ t, exec .sei s = .next t ∧ t.run = .running ∧ t.pending.get = some .irq) ∧
    (∃ t, exec .plp s = .next t ∧ t.run = .running ∧ t.pending.get = some .irq) ∧
    (∃ t, exec .rti s = .next t ∧ t.run = .running ∧ t.pending.get = some .irq) :=
  ⟨⟨_, rfl, rfl, rfl⟩, ⟨_, rfl, rfl, rfl⟩, ⟨_, rfl, rfl, rfl⟩, ⟨_, rfl, rfl, rfl⟩⟩

theorem witness_StepRunsTheDecodedInstruction :
    let s := ready [0xBD, 0xFF, 0x10]
    Executes s ∧
    (∀ (n : Nat) (h : n < [(0xBD : Byte), 0xFF, 0x10].length),
      peek s (s.pc + BitVec.ofNat 16 n) = some [(0xBD : Byte), 0xFF, 0x10][n]) ∧
    decode [0xBD, 0xFF, 0x10] = .ok (.ldaAbsX 0x10FF) [] := by
  unfold Executes; decide

theorem witness_EveryInstructionCompletes : (ready []).pcSet = true := by decide

theorem witness_HaltedStepChangesNothing : ({ ready [] with run := .halted }).run = .halted := by
  decide

/-- A step into Halted, one that stays Running, and a step in Halted. -/
theorem witness_HaltedIsReachedOnlyByUndefinedBytes :
    (∃ t, (ready [0x02]).run = .running ∧ step (ready [0x02]) = .next t ∧ t.run = .halted) ∧
    (∃ t, (ready [0xEA]).run = .running ∧ step (ready [0xEA]) = .next t ∧ t.run = .running) ∧
    (∃ t, step { ready [0xEA] with run := .halted } = .next t) :=
  ⟨⟨_, rfl, rfl, rfl⟩, ⟨_, rfl, rfl, rfl⟩, _, rfl⟩

theorem witness_ServiceChargesSevenCycles :
    (State.reset.run = .running ∧ takenLine State.reset = some .reset) ∧
    (let s := request .nmi (ready [])
     s.run = .running ∧ takenLine s = some .nmi ∧ s.pcSet = true) := by decide

theorem witness_CyclesChargedByAnInstruction :
    (∃ t, exec (.ldaAbsX 0x10FF) { ready [] with x := 1 } = .next t) ∧
    (∃ t, exec .brk (ready []) = .next t) := ⟨⟨_, rfl⟩, _, rfl⟩

theorem witness_ZeroCyclesOnlyWhenHaltedOrHalting :
    (ready [0xEA]).params = Params.standard ∧ (ready [0x02]).params = Params.standard := by decide

theorem witness_BusCallsOfAStep :
    (∃ t, step (ready [0x6C, 0xFF, 0x10]) = .next t) ∧ (∃ t, step State.reset = .next t) :=
  ⟨⟨_, rfl⟩, _, rfl⟩

theorem witness_BootLoadsTheResetVector :
    let s := { State.reset with
      mem := [(0xBFFC, 0x00), (0xBFFD, 0x80)], routes := console.routes, devices := [1] }
    peek s 0xFFFC = some 0x00 ∧ peek s 0xFFFD = some 0x80 ∧
    Params.standard.resetOverrideC000 = false := by decide

theorem witness_StepKeepsInvariant :
    Invariant (ready [0x28]) ∧ ∃ t, step (ready [0x28]) = .next t :=
  ⟨by unfold Invariant; decide, _, rfl⟩

theorem witness_ReachableStatesMeetInvariant :
    Reachable (powerCycle (ready [0xEA])) ∧ Reachable (request .reset (powerCycle (ready [0xEA]))) :=
  ⟨.powerUp (by decide), .host (.request .reset) (.powerUp (by decide))⟩

theorem witness_WrittenByteIsReadBack :
    placeOf console 0x07FF = .cell 0x07FF true ∧ placeOf console 0x0FFF = .cell 0x07FF true ∧
    placeOf console 0x8000 = .cell 0x8000 false ∧ placeOf console 0x2000 = .device ∧
    placeOf withDevice 0x3FFF = .cell 0x3FFF true ∧ placeOf withDevice 0x4001 = .device ∧
    placeOf withDevice 0x4002 = .cell 0x4002 true := by decide

theorem witness_NonStoringInstructionsKeepMemory :
    (∃ t, (Instr.ldaZpg 0x10).mnemonic ∉ storers ++ pushers ∧
      (Instr.ldaZpg 0x10).mnemonic ∉ modifiers ∧ exec (.ldaZpg 0x10) (ready []) = .next t) ∧
    (∃ t, Instr.aslAcc.mnemonic ∉ storers ++ pushers ∧ Instr.aslAcc.mode = .acc ∧
      exec .aslAcc (ready []) = .next t) :=
  ⟨⟨_, by decide, by decide, rfl⟩, _, by decide, rfl, rfl⟩

theorem witness_StoringInstructionsKeepOtherMemory :
    (∃ t, (Instr.staAbsX 0xFFFF).mnemonic ∈ storers ++ modifiers ∧
      exec (.staAbsX 0xFFFF) { ready [] with x := 1 } = .next t ∧
      targetOf (.staAbsX 0xFFFF) { ready [] with x := 1 } = .addr 0x0000) ∧
    (∃ t, (Instr.incZpg 0xFF).mnemonic ∈ storers ++ modifiers ∧
      exec (.incZpg 0xFF) (ready []) = .next t ∧ targetOf (.incZpg 0xFF) (ready []) = .addr 0xFF) :=
  ⟨⟨_, by decide, rfl, by decide⟩, _, by decide, rfl, by decide⟩

theorem witness_PushingInstructionsKeepOtherMemory :
    (∃ t, exec .pha (ready []) = .next t ∧ Instr.pha.mnemonic ∈ [.pha, .php]) ∧
    (∃ t, exec (.jsr 0xFFFF) { ready [] with sp := 0 } = .next t ∧
      (Instr.jsr 0xFFFF).mnemonic = .jsr) ∧
    (∃ t, exec .brk { ready [] with sp := 1 } = .next t ∧ Instr.brk.mnemonic = .brk) :=
  ⟨⟨_, rfl, by decide⟩, ⟨_, rfl, rfl⟩, _, rfl, rfl⟩

/-- For each clause an instruction that it constrains. -/
theorem witness_RegistersWrittenOnlyByTheirWriters :
    (∃ t, exec (.staZpg 0x10) (ready []) = .next t) ∧ (∃ t, exec (.aslZpg 0x10) (ready []) = .next t) ∧
    Instr.nop.mnemonic ∉ [Mnemonic.lda, .txa, .tya, .pla, .and, .ora, .eor, .adc, .sbc] ∧
    (Instr.aslZpg 0x10).mode ≠ .acc :=
  ⟨⟨_, rfl⟩, ⟨_, rfl⟩, by decide, by decide⟩

theorem witness_FlagsWrittenOnlyByTheirWriters :
    (∃ t, exec .inx (ready []) = .next t) ∧ (∃ t, exec .plp (ready []) = .next t) ∧
    Instr.inx.mnemonic ∉ flagWriters .C ∧ Instr.nop.mnemonic ∉ flagWriters .N ∧
    Instr.plp.mnemonic = .plp := ⟨⟨_, rfl⟩, ⟨_, rfl⟩, by decide, by decide, rfl⟩

theorem witness_ConfigurationAndPendingLinesAreKept :
    (∃ t, step (ready [0xEA]) = .next t) ∧
    (∃ t, exec .brk (request .nmi (ready [])) = .next t ∧
      (request .nmi (ready [])).pending.has .nmi = true ∧
      ¬(Instr.brk.mnemonic = .brk ∧ Line.nmi = .irq)) :=
  ⟨⟨_, rfl⟩, _, rfl, rfl, by decide⟩

theorem witness_DecimalFlagHasNoEffect :
    (Instr.adcImm 0x01).mnemonic ∉ [Mnemonic.php, .brk, .plp, .rti, .cld, .sed] ∧
    ∃ t, exec (.adcImm 0x01) { ready [] with a := 0x09 } = .next t := ⟨by decide, _, rfl⟩

end Sys2Proof.Tests
end

section
/-! The run state (spec/10_state.md R39): what the instructions, the interrupt service and the host's
operations do to it, each said once, and the statement about Halted assembled from them. -/

namespace Sys2Proof.Machine

open Sys2Proof.Safety

/-! ### The run state under an instruction -/

/-- The shapes that leave the run state: the five shared ones with an act that does, and BRK. -/
def Kind.KeepsRun : Kind → Prop
  | .read act => ∀ v s, (act v s).run = s.run
  | .implied act => ∀ s, (act s).run = s.run
  | .store _ | .modify _ | .branch .. | .brk => True
  | .undefined => False

theorem kindOf_keepsRun (f : Form) {m : Mnemonic} (h : m ≠ .unimplemented) :
    (kindOf f m).KeepsRun := by
  cases m
  case unimplemented => exact absurd rfl h
  case jmp => exact jumpTo_run f
  all_goals
    simp [kindOf, Kind.KeepsRun, loadReg, andA, orA, eorA, bitA, adcA, sbcA, cmpReg, pullA, pullP,
      callSub, returnSub, returnFromInterrupt]

theorem service_run {k : Line} {brk : Bool} {s t : State}
    (h : serviceInterrupt k brk s = .next t) : t.run = s.run := by
  rcases service_cases h with ⟨-, rfl⟩ | ⟨-, -, rfl⟩ <;> simp

/-- An instruction other than an undefined byte leaves the run state. -/
theorem exec_keeps_run {i : Instr} {s t : State} (hm : i.mnemonic ≠ .unimplemented)
    (h : exec i s = .next t) : t.run = s.run := by
  have hkeep := kindOf_keepsRun i.form hm
  cases hk : kindOf i.form i.mnemonic with
  | read act =>
    rw [hk] at hkeep; rw [exec_of_read i s hk] at h; cases h
    simp [hkeep _ _]
  | store v => rw [exec_of_store i s hk] at h; cases h; simp [afterResolve]
  | modify act => rw [exec_of_modify i s hk] at h; cases h; simp
  | implied act =>
    rw [hk] at hkeep; rw [exec_of_implied i s hk] at h; cases h
    exact hkeep s
  | branch fl want o => rw [exec_of_branch i s hk] at h; cases h; simp
  | brk =>
    rw [exec_eq, hk] at h
    obtain ⟨-, rfl⟩ := execBrk_next h
    simp
  | undefined => rw [hk] at hkeep; exact hkeep.elim

/-- An undefined byte halts the core and does nothing else (R330). -/
theorem exec_of_unimplemented {i : Instr} (s : State) (hm : i.mnemonic = .unimplemented) :
    exec i s = .next (halt s) := by rw [exec_eq, hm]; rfl

/-- From a running state, the undefined bytes are the instructions that halt. -/
theorem exec_halted_iff {i : Instr} {s t : State} (hr : s.run = .running)
    (h : exec i s = .next t) : t.run = .halted ↔ i.mnemonic = .unimplemented := by
  by_cases hm : i.mnemonic = .unimplemented
  · rw [exec_of_unimplemented s hm] at h; cases h
    simp [hm]
  · simp [exec_keeps_run hm h, hr, hm]

/-! ### The run state under a step and under a host operation -/

theorem step_halted_iff {s t : State} (hr : s.run = .running) (h : step s = .next t) :
    t.run = .halted ↔ Executes s ∧ (nextInstr s).mnemonic = .unimplemented := by
  rcases step_cases h with ⟨hh, -⟩ | ⟨-, k, hk, hs⟩ | ⟨he, hx⟩
  · rw [hr] at hh; cases hh
  · have hne : ¬ Executes s := by
      rintro ⟨-, hn, -⟩; rw [hn] at hk; cases hk
    simp [service_run hs, hr, hne]
  · simp [exec_halted_iff ((commitFetch_run _ s).trans hr) hx, he]

/-- `power_cycle()` and `reset()` make the core Running (R350, R352); the others leave the run
state. -/
theorem HostOp.apply_run (h : HostOp) (s : State) :
    (h.apply s).run = if h = .powerCycle ∨ h = .reset then .running else s.run := by
  cases h <;> simp [HostOp.apply, Machine.powerCycle, hostReset, Machine.request, Machine.withdraw,
    hostWrite, runDevices]

/-- Settles O43: by the cases of a step (`step_halted_iff`), the halted step, the host's operations. -/
theorem haltedIsReachedOnlyByUndefinedBytes : Obligations.HaltedIsReachedOnlyByUndefinedBytes := by
  unfold Obligations.HaltedIsReachedOnlyByUndefinedBytes
  refine ⟨fun s => rfl, fun s t => step_halted_iff, fun s t hr h => ?_, fun h s hr => ?_⟩
  · rw [step_halted hr] at h; cases h; exact hr
  · simp only [HostOp.apply_run, hr, ite_eq_left_iff, reduceCtorEq, imp_false, not_not]

end Sys2Proof.Machine
end

section
/-! Pointers and the stack helpers (spec/20_memory.md R64, R72 to R78; spec/40_step_and_addressing.md
R128 to R130): the page-wrapping word read, the modes that resolve through it, and the slots of pushes
and pulls. -/

namespace Sys2Proof.Machine

open Sys2Proof.Safety

/-! ### The page-wrapping word read -/

/-- The low byte at the address, then the high byte at the next address of the page (R64). -/
theorem memRead16Zpg_eq (a : Word) (s : State) :
    memRead16Zpg a s = (pointerWord a s, afterPointer a s) := rfl

/-- In page zero the next address of the page is the next byte, mod 256. -/
theorem pointerHigh_zext (o : Byte) : pointerHigh (zext o) = zext (o + 1) := by
  revert o; decide

/-! ### The modes that read a pointer -/

/-- The one instruction of mode ind is the indirect jump (R128). -/
theorem mode_eq_ind_iff (i : Instr) : i.mode = .ind ↔ ∃ w, i = .jmpInd w := by
  cases i <;> simp [Instr.mode, Instr.form, Form.mode]

theorem resolve_ind (w : Word) (s : State) :
    resolve (.ind w) s = direct (pointerWord w s) (afterPointer w s) := by
  rw [resolve, memRead16Zpg_eq]

theorem resolve_xInd (o : Byte) (s : State) :
    resolve (.xInd o) s =
      direct (pointerWord (zext (o + s.x)) s) (afterPointer (zext (o + s.x)) s) := by
  rw [resolve, memRead16Zpg_eq]

theorem resolve_indY (o : Byte) (s : State) :
    resolve (.indY o) s =
      indexed (pointerWord (zext o) s) s.y (afterPointer (zext o) s) := by
  rw [resolve, memRead16Zpg_eq]

/-- Settles O7: the read is its two bus reads (`memRead16Zpg_eq`), and each mode resolves to the word it
answers (`resolve_ind`, `resolve_xInd`), in mode indY indexed by Y (`resolve_indY`). -/
theorem pointerModesResolve : Obligations.PointerModesResolve := by
  unfold Obligations.PointerModesResolve
  refine ⟨fun i h => ?_, fun s w o =>
    ⟨memRead16Zpg_eq w s, pointerHigh_zext o, rfl, resolve_ind w s, rfl, resolve_xInd o s, rfl,
      resolve_indY o s⟩⟩
  obtain ⟨w, rfl⟩ := (mode_eq_ind_iff i).1 h
  rfl

/-! ### The stack helpers -/

/-- A pull is one more in `S` and a read at the slot it then names (R76). -/
theorem pull_eq (s : State) :
    pull s = (readByte (stackAddr (s.sp + 1)) s,
      setSp (s.sp + 1) (afterRead (stackAddr (s.sp + 1)) s)) := rfl

theorem lo8_eq_setWidth (w : Word) : lo8 w = w.setWidth 8 := by
  rw [lo8, BitVec.setWidth_eq_extractLsb' (by decide)]

theorem hi8_eq_setWidth (w : Word) : hi8 w = (w >>> 8).setWidth 8 := by
  ext i hi
  simp [hi8]

/-- Every slot lies in page one (R72). -/
theorem stackAddr_mem_pageOne (v : Byte) :
    0x0100 ≤ (stackAddr v).toNat ∧ (stackAddr v).toNat ≤ 0x01FF := by
  rw [stackAddr_toNat]
  have hv := v.isLt
  omega

/-- Settles O15: by the equations of a push (`push_eq`), a pull (`pull_eq`) and the bytes of a word, and
the bounds of a slot (`stackAddr_mem_pageOne`). -/
theorem stackHelpersStayInPageOne : Obligations.StackHelpersStayInPageOne := by
  unfold Obligations.StackHelpersStayInPageOne
  intro s v w
  refine ⟨push_eq v s, pull_eq s, ?_, stackAddr_mem_pageOne v⟩
  rw [push16, lo8_eq_setWidth, hi8_eq_setWidth]

end Sys2Proof.Machine
end

section
/-! The modes whose address needs no memory read (spec/40_step_and_addressing.md R122, R125 to R127, R131
to R133, R136, R137), and which instructions have modes zpgY, acc and rel. -/

namespace Sys2Proof.Machine

open Sys2Proof.Safety

/-! ### Modes that few mnemonics have -/

theorem mnemonic_of_mode_zpgY {i : Instr} (h : i.mode = .zpgY) : i.mnemonic ∈ [.ldx, .stx] := by
  revert h
  cases i <;> simp [Instr.mode, Instr.form, Form.mode, Instr.mnemonic]

theorem mnemonic_of_mode_acc {i : Instr} (h : i.mode = .acc) :
    i.mnemonic ∈ [.asl, .lsr, .rol, .ror] := by
  revert h
  cases i <;> simp [Instr.mode, Instr.form, Form.mode, Instr.mnemonic]

theorem mode_eq_rel_iff (i : Instr) : i.mode = .rel ↔ i.mnemonic ∈ branches := by
  cases i <;> simp [Instr.mode, Instr.form, Form.mode, Instr.mnemonic, branches]

/-! ### The modes whose address needs no memory read -/

/-- A form with `n` operand bytes resolves as its equation says: the fetch passes its length
(`commitFetch_pc`). -/
theorem resolvesTo_of_resolve {f : Form} {n : Nat} {s : State} {ea : Word} {crossed : Bool}
    (hlen : f.mode.length = n + 1) (h : resolve f s = ⟨.addr ea, crossed, s⟩) :
    ResolvesTo f n s ea crossed := by
  refine ⟨hlen, ?_, ?_, ?_, ?_⟩
  · rw [commitFetch_pc, hlen]
  all_goals rw [h]

/-- A zero-page address indexed by a byte wraps in the zero page (R132, R133). -/
theorem zext_add_toNat (o v : Byte) : (zext (o + v)).toNat = (o.toNat + v.toNat) % 256 := by
  rw [zext, BitVec.toNat_setWidth_of_le (by decide), BitVec.toNat_add]

/-- Settles O6: each mode by its equation of `resolve` (`resolvesTo_of_resolve`), the wrap by
`zext_add_toNat`, the mnemonics by `mnemonic_of_mode_zpgY` and `mnemonic_of_mode_acc`. -/
theorem directModesResolve : Obligations.DirectModesResolve := by
  unfold Obligations.DirectModesResolve
  refine ⟨fun i => ⟨mnemonic_of_mode_zpgY, mnemonic_of_mode_acc⟩, fun s w o => ?_⟩
  exact ⟨resolvesTo_of_resolve rfl rfl, resolvesTo_of_resolve rfl rfl, resolvesTo_of_resolve rfl rfl,
    resolvesTo_of_resolve rfl rfl, resolvesTo_of_resolve rfl rfl, resolvesTo_of_resolve rfl rfl,
    zext_add_toNat o s.x, zext_add_toNat o s.y, rfl, rfl, rfl, rfl⟩

end Sys2Proof.Machine
end

section
/-! The modes that pass over their operand byte (spec/40_step_and_addressing.md R122, R134, R135): the
decoder puts the byte after the opcode in the form, and that byte is the bus's answer at the operand's
address once the fetch is done. -/

namespace Sys2Proof

/-! ### The operand byte of a decoded instruction -/

/-- The instruction that an opcode's shape makes of the two bytes after the opcode. -/
def Shape.instr (b1 b2 : Byte) : Shape → Instr
  | .single i => i
  | .withByte f => f b1
  | .withWord f => f (concat b2 b1)

theorem decodeWindow_eq (b0 b1 b2 : Byte) : decodeWindow b0 b1 b2 = (shapeOf b0).instr b1 b2 := by
  unfold decodeWindow Shape.instr
  rfl

/-- The two forms that pass over their operand byte, carrying the byte `o`. -/
def Form.PassesOver (o : Byte) (f : Form) : Prop := f = .imm o ∨ f = .rel o

theorem opcodeMap_passesOver {row : MapRow} (hrow : row ∈ opcodeMap) (b1 b2 : Byte)
    (h : (row.shape.instr b1 b2).mode = .imm ∨ (row.shape.instr b1 b2).mode = .rel) :
    (row.shape.instr b1 b2).form.PassesOver b1 := by
  revert row
  -- The list becomes a conjunction, one part a row, before the forms are unfolded.
  simp only [opcodeMap, opcodeRow0, opcodeRow1, opcodeRow2, opcodeRow3, opcodeRow4, opcodeRow5,
    opcodeRow6, opcodeRow7, opcodeRow8, opcodeRow9, opcodeRowA, opcodeRowB, opcodeRowC, opcodeRowD,
    opcodeRowE, opcodeRowF, List.cons_append, List.nil_append, List.forall_mem_cons]
  simp [Shape.instr, Instr.mode, Instr.form, Form.mode, Form.PassesOver]

/-- What passes over its operand byte carries the byte after the opcode: the listed opcodes by
`opcodeMap_passesOver`, and an undefined byte has mode invalid. -/
theorem decodeWindow_passesOver {b0 b1 b2 : Byte}
    (h : (decodeWindow b0 b1 b2).mode = .imm ∨ (decodeWindow b0 b1 b2).mode = .rel) :
    (decodeWindow b0 b1 b2).form.PassesOver b1 := by
  rw [decodeWindow_eq] at h ⊢
  unfold shapeOf at h ⊢
  split at h
  case h_1 row hrow => exact opcodeMap_passesOver (List.mem_of_find?_eq_some hrow) b1 b2 h
  case h_2 => simp [Shape.instr, Instr.mode, Instr.form, Form.mode] at h

end Sys2Proof

namespace Sys2Proof.Machine

open Sys2Proof.Safety

/-! ### The fetch and the target -/

/-- Only the opcode is fetched (R134, R135). -/
theorem commitFetch_of_passedOver {m : Mode} (hm : m = .imm ∨ m = .rel) (s : State) :
    commitFetch m s = advancePc 1 (fetchByte s).2 := by
  rcases hm with rfl | rfl <;> rfl

theorem callsIn_commitFetch_of_passedOver {m : Mode} (hm : m = .imm ∨ m = .rel) (s : State) :
    callsIn (commitFetch m s) = .R s.pc :: callsIn s := by
  rw [commitFetch_calls]
  rcases hm with rfl | rfl <;> rfl

theorem commitFetch_pc_of_passedOver {m : Mode} (hm : m = .imm ∨ m = .rel) (s : State) :
    (commitFetch m s).pc = s.pc + 2 := by
  rw [commitFetch_pc]
  rcases hm with rfl | rfl <;> rfl

/-- The byte that the lookahead of a step carries is the bus's answer after the opcode's fetch. -/
theorem nextInstr_passesOver {s : State} (h : (nextInstr s).mode = .imm ∨ (nextInstr s).mode = .rel) :
    (nextInstr s).form.PassesOver (readByte (s.pc + 1) (commitFetch (nextInstr s).mode s)) := by
  rw [commitFetch_of_passedOver h]
  exact decodeWindow_passesOver h

theorem resolve_of_passesOver {f : Form} {o : Byte} (hf : f.PassesOver o) (s : State) :
    resolve f s = ⟨.operand (s.pc - 1) o, false, s⟩ := by
  rcases hf with rfl | rfl <;> rfl

/-- Settles O8: the instruction carries the bus's answer (`nextInstr_passesOver`), so it resolves to the
operand's address with that byte (`resolve_of_passesOver`), and an operand is read by one bus read. -/
theorem passedOverOperandIsTheBusAnswer : Obligations.PassedOverOperandIsTheBusAnswer := by
  unfold Obligations.PassedOverOperandIsTheBusAnswer
  refine ⟨mode_eq_rel_iff, fun s => ?_⟩
  intro i c h
  have hpc : c.pc = s.pc + 2 := commitFetch_pc_of_passedOver h s
  have hea : c.pc - 1 = s.pc + 1 := by rw [hpc]; bv_omega
  have hres : resolve i.form c = ⟨.operand (s.pc + 1) (readByte (s.pc + 1) c), false, c⟩ :=
    hea ▸ resolve_of_passesOver (nextInstr_passesOver h) c
  have htarget : targetOf i c = .operand (s.pc + 1) (readByte (s.pc + 1) c) :=
    congrArg Resolved.target hres
  have hafter : afterResolve i c = c := congrArg Resolved.st hres
  refine ⟨hpc, callsIn_commitFetch_of_passedOver h s, htarget, hafter, ?_, ?_⟩
  · rw [operandOf, htarget, operandByte]
  · rw [afterOperandOf, htarget, hafter, afterOperand]

end Sys2Proof.Machine
end

section
/-! Loads and stores (spec/41_load_store.md R161 to R166): a load is one operand read into a register with
Z and N after it, a store one write at an address. -/

namespace Sys2Proof.Machine

open Sys2Proof.Safety

/-! ### Loads -/

/-- A load into the register that `set` writes, a write that neither looks at the counter (`hset`) nor
moves it (`hcycles`): the operand byte, Z and N after it, both cycle counts, and the rest as the operand
read leaves it. -/
theorem exec_of_load (i : Instr) (s : State) {set : Byte → State → State}
    (hk : kindOf i.form i.mnemonic = .read (loadReg set))
    (hset : ∀ v n t, set v (addCycles n t) = addCycles n (set v t))
    (hcycles : ∀ v t, (set v t).cycles = t.cycles) :
    ∃ t, exec i s = .next t ∧ ZNSet (operandOf i s) s.p t.p ∧
      t = { set (operandOf i s) (afterOperandOf i s) with
        p := t.p, cycles := s.cycles + readCycles i s } := by
  refine ⟨_, exec_of_read i s hk, ?_, ?_⟩
  · simpa [loadReg] using znSet_setZN (operandOf i s) s.p
  · rw [loadReg, hset]
    apply State.ext <;> simp [hcycles, readCycles, baseOf]
    case cycles => omega

/-- Settles O10: the forms by the table of mnemonics (`hasForms`), each load by `exec_of_load` on its
register. -/
theorem loadsWriteRegisterAndZN : Obligations.LoadsWriteRegisterAndZN := by
  unfold Obligations.LoadsWriteRegisterAndZN
  refine ⟨hasForms .lda (by decide), hasForms .ldx (by decide), hasForms .ldy (by decide),
    fun i s => ⟨fun h => ?_, fun h => ?_, fun h => ?_⟩⟩
  · exact exec_of_load i s (set := setA) (by rw [h]; rfl) (fun _ _ _ => rfl) (fun _ _ => rfl)
  · exact exec_of_load i s (set := setX) (by rw [h]; rfl) (fun _ _ _ => rfl) (fun _ _ => rfl)
  · exact exec_of_load i s (set := setY) (by rw [h]; rfl) (fun _ _ _ => rfl) (fun _ _ => rfl)

/-! ### Stores -/

/-- Every mode but these five resolves to an address (R125 to R133). -/
theorem resolve_target_addr {f : Form} (h : f.mode ∉ [.rel, .imm, .acc, .impl, .invalid]) (s : State) :
    ∃ ea, (resolve f s).target = .addr ea := by
  revert h
  cases f <;> simp [Form.mode, resolve, direct, indexed]

/-- No store has one of the modes that name no address. -/
theorem mode_of_storer {i : Instr} (h : i.mnemonic ∈ storers) :
    i.mode ∉ [.rel, .imm, .acc, .impl, .invalid] := by
  revert h
  cases i <;> simp [Instr.mnemonic, storers, Instr.mode, Instr.form, Form.mode]

@[simp] theorem afterResolve_cycles (i : Instr) (s : State) : (afterResolve i s).cycles = s.cycles :=
  resolve_cycles i.form s

/-- A store is one write at its target's address and the base count (R164). -/
theorem exec_of_storer {i : Instr} (s : State) {v : State → Byte} (hm : i.mnemonic ∈ storers)
    (hk : kindOf i.form i.mnemonic = .store v) :
    ∃ ea, targetOf i s = .addr ea ∧
      exec i s = .next
        { memWrite ea (v s) (afterResolve i s) with cycles := s.cycles + baseOf i s } := by
  obtain ⟨ea, hea⟩ : ∃ ea, targetOf i s = .addr ea := resolve_target_addr (mode_of_storer hm) s
  refine ⟨ea, hea, ?_⟩
  rw [exec_of_store i s hk, hea, writeOperand, addCycles, memWrite_cycles, afterResolve_cycles]

/-- Settles O11: the forms by the table of mnemonics (`hasForms`), each store by `exec_of_storer` on its
register. -/
theorem storesWriteTheTarget : Obligations.StoresWriteTheTarget := by
  unfold Obligations.StoresWriteTheTarget
  refine ⟨hasForms .sta (by decide), hasForms .stx (by decide), hasForms .sty (by decide),
    fun i s => ⟨fun h => ?_, fun h => ?_, fun h => ?_⟩⟩
  · exact exec_of_storer s (v := State.a) (by simp [h, storers]) (by rw [h]; rfl)
  · exact exec_of_storer s (v := State.x) (by simp [h, storers]) (by rw [h]; rfl)
  · exact exec_of_storer s (v := State.y) (by simp [h, storers]) (by rw [h]; rfl)

end Sys2Proof.Machine
end

section
/-! Transfers and stack (spec/42_transfer_stack.md R181 to R189): TAX, TAY, TXA, TYA, TSX and PLA load a
register with Z and N after it, PHA and PHP write one slot, TXS moves `S` alone. -/

namespace Sys2Proof.Machine

open Sys2Proof.Safety

/-- An implied instruction that loads `v` into the register that `set` writes, in a state `u` with the
status byte of `s` (`hp`) and its count (`hcycles`): Z and N after `v`, the base count, and the rest as
`set` leaves it. -/
theorem exec_of_implied_load (i : Instr) (s : State) {u : State} {v : Byte}
    {set : Byte → State → State} {act : State → State}
    (hk : kindOf i.form i.mnemonic = .implied act) (hact : act s = loadReg set v u)
    (hp : u.p = s.p) (hcycles : (set v u).cycles = s.cycles) :
    ∃ t, exec i s = .next t ∧ ZNSet v s.p t.p ∧
      t = { set v u with p := t.p, cycles := s.cycles + baseOf i s } := by
  refine ⟨_, exec_of_implied i s hk, ?_, ?_⟩
  · rw [hact, loadReg, addCycles_p, setP_p, hp]
    exact znSet_setZN v s.p
  · rw [hact, ← hcycles]
    rfl

/-- Settles O12: the forms by the table of mnemonics (`hasForms`), each transfer with flags by
`exec_of_implied_load` on its two registers, TXS by its shape alone. -/
theorem transfersCopyRegisters : Obligations.TransfersCopyRegisters := by
  unfold Obligations.TransfersCopyRegisters
  refine ⟨hasForms .tax (by decide), hasForms .tay (by decide), hasForms .txa (by decide),
    hasForms .tya (by decide), hasForms .tsx (by decide), hasForms .txs (by decide),
    fun s => ⟨?_, ?_, ?_, ?_, ?_, ?_⟩⟩
  · exact exec_of_implied_load .tax s (u := s) (set := setX) rfl rfl rfl rfl
  · exact exec_of_implied_load .tay s (u := s) (set := setY) rfl rfl rfl rfl
  · exact exec_of_implied_load .txa s (u := s) (set := setA) rfl rfl rfl rfl
  · exact exec_of_implied_load .tya s (u := s) (set := setA) rfl rfl rfl rfl
  · exact exec_of_implied_load .tsx s (u := s) (set := setX) rfl rfl rfl rfl
  · exact exec_of_implied .txs s rfl

/-- An implied instruction that pushes one byte: one write at the slot, one less in `S`, and the base
count. -/
theorem exec_of_push (i : Instr) (s : State) {v : State → Byte}
    (hk : kindOf i.form i.mnemonic = .implied (fun t => push (v t) t)) :
    exec i s = .next { memWrite (stackAddr s.sp) (v s) s with
      sp := s.sp - 1, cycles := s.cycles + baseOf i s } := by
  rw [exec_of_implied i s hk, push_eq, addCycles, setSp_cycles, memWrite_cycles, setSp]

/-- PLA loads A in the state after its pull (R188). -/
theorem pullA_eq (s : State) :
    pullA s = loadReg setA (readByte (stackAddr (s.sp + 1)) s)
      (setSp (s.sp + 1) (afterRead (stackAddr (s.sp + 1)) s)) := by
  rw [pullA, pull_eq]

/-- Settles O13: the forms by the table of mnemonics (`hasForms`), PHA and PHP by `exec_of_push`, PLA by
`exec_of_implied_load` after its pull (`pullA_eq`). -/
theorem pushAndPullOfAAndP : Obligations.PushAndPullOfAAndP := by
  unfold Obligations.PushAndPullOfAAndP
  refine ⟨hasForms .pha (by decide), hasForms .pla (by decide), hasForms .php (by decide),
    fun s => ⟨?_, ?_, ?_⟩⟩
  · exact exec_of_push .pha s (v := State.a) rfl
  · exact exec_of_push .php s (v := State.p) rfl
  · exact exec_of_implied_load .pla s rfl (pullA_eq s) rfl rfl

end Sys2Proof.Machine
end

section
/-! Logic, arithmetic and compare (spec/43_logical_arith_compare.md R201 to R209): each reads one operand
byte, and from `A`, the flags and that byte writes the status byte alone, or `A` and the status byte. -/

namespace Sys2Proof.Machine

open Sys2Proof.Safety

/-! ### What reads one operand -/

/-- An instruction that reads one operand byte, in terms of the state `w` that its act leaves with the
counter untouched (`hact`, `hw`): the count is the base count and the page-cross cycle. -/
theorem exec_of_read_state (i : Instr) (s w : State) {act : Byte → State → State}
    (hk : kindOf i.form i.mnemonic = .read act)
    (hact : ∀ n, act (operandOf i s) (addCycles n (afterOperandOf i s)) = addCycles n w)
    (hw : w.cycles = s.cycles) :
    exec i s = .next { w with cycles := s.cycles + readCycles i s } := by
  rw [exec_of_read i s hk, hact]
  simp only [addCycles, hw, readCycles, baseOf, Nat.add_left_comm, Nat.add_comm]

/-! ### Logic -/

/-- AND, ORA and EOR for their operation on bytes: `A` is its result, with Z and N after it
(R201 to R203). -/
theorem exec_of_logical (i : Instr) (s : State) {op : Byte → Byte → Byte}
    (hk : kindOf i.form i.mnemonic = .read (fun m t => loadReg setA (op t.a m) t)) :
    ∃ t, exec i s = .next t ∧ ZNSet (op s.a (operandOf i s)) s.p t.p ∧
      t = { afterOperandOf i s with
        a := op s.a (operandOf i s), p := t.p, cycles := s.cycles + readCycles i s } := by
  refine ⟨_, exec_of_read_state i s (loadReg setA (op s.a (operandOf i s)) (afterOperandOf i s)) hk
    (fun n => ?_) ?_, ?_, rfl⟩
  · simp only [addCycles_a, afterOperandOf_a]
    rfl
  · exact afterOperandOf_cycles i s
  · simpa [loadReg] using znSet_setZN (op s.a (operandOf i s)) s.p

/-- Settles O17: the forms by the table of mnemonics (`hasForms`), each instruction by
`exec_of_logical` on its operation. -/
theorem logicalOpsWriteAAndZN : Obligations.LogicalOpsWriteAAndZN := by
  unfold Obligations.LogicalOpsWriteAAndZN
  refine ⟨hasForms .and (by decide), hasForms .ora (by decide), hasForms .eor (by decide),
    fun i s => ⟨fun h => ?_, fun h => ?_, fun h => ?_⟩⟩
  · exact exec_of_logical i s (op := (· &&& ·)) (by rw [h]; rfl)
  · exact exec_of_logical i s (op := (· ||| ·)) (by rw [h]; rfl)
  · exact exec_of_logical i s (op := (· ^^^ ·)) (by rw [h]; rfl)

/-! ### BIT and the compares: the flags only -/

/-- An instruction that reads one operand byte and writes the status byte `q` alone. -/
theorem exec_of_read_setP (i : Instr) (s : State) {act : Byte → State → State} {q : Byte}
    (hk : kindOf i.form i.mnemonic = .read act)
    (hact : ∀ n, act (operandOf i s) (addCycles n (afterOperandOf i s)) =
      setP q (addCycles n (afterOperandOf i s))) :
    exec i s = .next { afterOperandOf i s with p := q, cycles := s.cycles + readCycles i s } :=
  exec_of_read_state i s (setP q (afterOperandOf i s)) hk hact (afterOperandOf_cycles i s)

/-- BIT's status byte, flag by flag (R204). -/
theorem getFlag_bitFlags (f : Flag) (a m p : Byte) :
    getFlag f (bitFlags a m p) = if f = .Z then a &&& m == 0 else if f = .V then m.getLsbD 6
      else if f = .N then m.getLsbD 7 else getFlag f p := by
  simp only [bitFlags, getFlag_putFlag]
  cases f <;> rfl

/-- Settles O18: the forms by the table of mnemonics (`hasForms`), the state by `exec_of_read_setP`, the
flags by `getFlag_bitFlags`. -/
theorem bitTestsTheOperand : Obligations.BitTestsTheOperand := by
  unfold Obligations.BitTestsTheOperand
  refine ⟨hasForms .bit (by decide), fun i s h => ?_⟩
  exact ⟨_, exec_of_read_setP i s (act := bitA) (q := bitFlags s.a (operandOf i s) s.p) (by rw [h]; rfl)
      (fun n => by rw [bitA, addCycles_a, afterOperandOf_a, addCycles_p, afterOperandOf_p]),
    fun f => getFlag_bitFlags f s.a (operandOf i s) s.p, rfl⟩

/-- A compare with the register that `r` reads, one that neither the operand read nor the counter moves
(`hr`): C is the unsigned order, Z and N are of the difference, and nothing else changes (R207). -/
theorem exec_of_compare (i : Instr) (s : State) {r : State → Byte}
    (hk : kindOf i.form i.mnemonic = .read (fun m t => cmpReg (r t) m t))
    (hr : ∀ n, r (addCycles n (afterOperandOf i s)) = r s) :
    ∃ t, exec i s = .next t ∧
      CZNSet (decide ((r s).toNat ≥ (operandOf i s).toNat)) (r s - operandOf i s) s.p t.p ∧
      t = { afterOperandOf i s with p := t.p, cycles := s.cycles + readCycles i s } :=
  ⟨_, exec_of_read_setP i s (q := cmpFlags (r s) (operandOf i s) s.p) hk
      (fun n => by rw [hr, cmpReg, addCycles_p, afterOperandOf_p]),
    cznSet_setZN _ _ s.p, rfl⟩

/-- Settles O21: the forms by the table of mnemonics (`hasForms`), each compare by `exec_of_compare` on
its register. -/
theorem comparesSetCZN : Obligations.ComparesSetCZN := by
  unfold Obligations.ComparesSetCZN
  refine ⟨hasForms .cmp (by decide), hasForms .cpx (by decide), hasForms .cpy (by decide),
    fun i s => ⟨fun h => ?_, fun h => ?_, fun h => ?_⟩⟩
  · exact exec_of_compare i s (r := State.a) (by rw [h]; rfl) (fun _ => afterOperandOf_a i s)
  · exact exec_of_compare i s (r := State.x) (by rw [h]; rfl) (fun _ => afterOperandOf_x i s)
  · exact exec_of_compare i s (r := State.y) (by rw [h]; rfl) (fun _ => afterOperandOf_y i s)

/-! ### ADC and SBC -/

theorem flagWord_toNat (f : Flag) (p : Byte) : (flagWord f p).toNat = (getFlag f p).toNat := by
  unfold flagWord
  cases getFlag f p <;> rfl

/-- The 16-bit sum does not wrap (R205). -/
theorem adcSum_toNat (a m p : Byte) :
    (adcSum a m p).toNat = a.toNat + m.toNat + (getFlag .C p).toNat := by
  have ha := a.isLt
  have hm := m.isLt
  have hc := Bool.toNat_le (getFlag .C p)
  simp only [adcSum, zext, BitVec.toNat_add, BitVec.toNat_setWidth, flagWord_toNat]
  omega

/-- The sum byte is the sum mod 256. -/
theorem adcOut_eq_ofNat (a m p : Byte) :
    adcOut a m p = BitVec.ofNat 8 (a.toNat + m.toNat + (getFlag .C p).toNat) := by
  rw [adcOut, lo8_eq_setWidth, ← adcSum_toNat]
  rfl

/-- The low byte of a word is zero when the word is a multiple of 256. -/
theorem and_lowByte_beq_zero (w : Word) : (w &&& 0xFF == 0) = decide (w.toNat % 256 = 0) := by
  have hlow : (w &&& 0xFF).toNat = w.toNat % 256 := Nat.and_two_pow_sub_one_eq_mod w.toNat 8
  rw [← hlow, Bool.eq_iff_iff, beq_iff_eq, decide_eq_true_iff, BitVec.toNat_eq]
  rfl

/-- ADC's result and status byte, flag by flag, from the sum as a number (R205). -/
theorem addSets_adc (a m p : Byte) :
    AddSets a m (getFlag .C p) p (adcOut a m p) (adcFlags a m p) := by
  refine ⟨adcOut_eq_ofNat a m p, fun f => ?_⟩
  rw [← adcSum_toNat]
  simp only [adcFlags, getFlag_putFlag]
  cases f
  case Z => exact and_lowByte_beq_zero (adcSum a m p)
  all_goals rfl

/-- SBC is ADC with the operand complemented (R206). -/
theorem sbcA_eq_adcA (m : Byte) (s : State) : sbcA m s = adcA (m ^^^ 0xFF) s := by
  rw [show m ^^^ 0xFF = ~~~m from BitVec.xor_allOnes]
  rfl

/-- An instruction that adds to `A` the byte `g` makes of its operand, and the carry. -/
theorem exec_of_add (i : Instr) (s : State) {g : Byte → Byte}
    (hk : kindOf i.form i.mnemonic = .read (fun m t => adcA (g m) t)) :
    ∃ t, exec i s = .next t ∧
      AddSets s.a (g (operandOf i s)) (getFlag .C s.p) s.p t.a t.p ∧
      t = { afterOperandOf i s with a := t.a, p := t.p, cycles := s.cycles + readCycles i s } := by
  refine ⟨_, exec_of_read_state i s (adcA (g (operandOf i s)) (afterOperandOf i s)) hk
    (fun n => rfl) (afterOperandOf_cycles i s), ?_, rfl⟩
  simpa [adcA] using addSets_adc s.a (g (operandOf i s)) s.p

/-- Settles O19: the forms by the table of mnemonics (`hasForms`), ADC by `exec_of_add` on the operand,
SBC on its complement (`sbcA_eq_adcA`). -/
theorem adcAndSbcAddWithCarry : Obligations.AdcAndSbcAddWithCarry := by
  unfold Obligations.AdcAndSbcAddWithCarry
  refine ⟨hasForms .adc (by decide), hasForms .sbc (by decide),
    fun i s => ⟨fun h => ?_, fun h => ?_⟩⟩
  · exact exec_of_add i s (g := id) (by rw [h]; rfl)
  · refine exec_of_add i s (g := (· ^^^ 0xFF)) ?_
    rw [h]
    exact congrArg Kind.read (funext₂ sbcA_eq_adcA)

end Sys2Proof.Machine
end

section
/-! Increment, decrement, shift and rotate (spec/44_incdec_shift.md R231 to R240): a read-modify-write makes
one read and one write of the same target, `A` in mode acc, an address in every other mode; INX, INY, DEX
and DEY load a register. -/

namespace Sys2Proof.Machine

open Sys2Proof.Safety

/-! ### What reads and writes one target -/

/-- Outside mode acc no read-modify-write instruction has one of the modes that name no address. -/
theorem mode_of_modifier {i : Instr} (hm : i.mnemonic ∈ modifiers) (hacc : i.mode ≠ .acc) :
    i.mode ∉ [.rel, .imm, .acc, .impl, .invalid] := by
  revert hm hacc
  cases i <;> simp [Instr.mnemonic, modifiers, Instr.mode, Instr.form, Form.mode]

theorem form_of_mode_acc {f : Form} (h : f.mode = .acc) : f = .acc := by
  revert h
  cases f <;> simp [Form.mode]

/-- In mode acc the target is `A`, and resolving it does nothing (R136). -/
theorem resolve_of_mode_acc {i : Instr} (h : i.mode = .acc) (s : State) :
    resolve i.form s = ⟨.acc, false, s⟩ := by
  rw [form_of_mode_acc h, resolve]

/-- The counter plays no part in a write. -/
theorem writeOperand_addCycles (t : Target) (v : Byte) (n : Nat) (s : State) :
    writeOperand t v (addCycles n s) = addCycles n (writeOperand t v s) := by
  cases t <;> rfl

/-- A read-modify-write in terms of the result and the status byte `out` of its act: both cycle counts,
and the rest as the write to the target leaves it (R230). -/
theorem exec_of_modify_state (i : Instr) (s : State) {act : Byte → Byte → Byte × Byte}
    {out : Byte × Byte} (hk : kindOf i.form i.mnemonic = .modify act)
    (hout : act (operandOf i s) s.p = out) :
    exec i s = .next { writeOperand (targetOf i s) out.1 (afterOperandOf i s) with
      p := out.2, cycles := s.cycles + readCycles i s } := by
  rw [exec_of_modify i s hk, hout, writeOperand_addCycles]
  simp only [setP, addCycles, writeOperand_cycles, afterOperandOf_cycles, readCycles, baseOf,
    Nat.add_left_comm, Nat.add_comm]

/-- In mode acc a read-modify-write reads and writes `A` (R136, R230). -/
theorem exec_of_modify_acc (i : Instr) (s : State) {act : Byte → Byte → Byte × Byte}
    {out : Byte × Byte} (hk : kindOf i.form i.mnemonic = .modify act)
    (hout : act (operandOf i s) s.p = out) (hacc : i.mode = .acc) :
    operandOf i s = s.a ∧
    exec i s = .next { s with a := out.1, p := out.2, cycles := s.cycles + readCycles i s } := by
  have hres := resolve_of_mode_acc hacc s
  have htarget : targetOf i s = .acc := congrArg Resolved.target hres
  have hafter : afterResolve i s = s := congrArg Resolved.st hres
  refine ⟨by rw [operandOf, htarget, hafter, operandByte], ?_⟩
  rw [exec_of_modify_state i s hk hout, afterOperandOf, htarget, hafter]
  rfl

/-- In every other mode a read-modify-write reads and writes an address (R230). -/
theorem exec_of_modify_addr (i : Instr) (s : State) {act : Byte → Byte → Byte × Byte}
    {out : Byte × Byte} (hk : kindOf i.form i.mnemonic = .modify act)
    (hout : act (operandOf i s) s.p = out) (hm : i.mnemonic ∈ modifiers) (hacc : i.mode ≠ .acc) :
    ∃ ea, targetOf i s = .addr ea ∧
      exec i s = .next { memWrite ea out.1 (afterOperandOf i s) with
        p := out.2, cycles := s.cycles + readCycles i s } := by
  obtain ⟨ea, hea⟩ : ∃ ea, targetOf i s = .addr ea :=
    resolve_target_addr (mode_of_modifier hm hacc) s
  exact ⟨ea, hea, by rw [exec_of_modify_state i s hk hout, hea, writeOperand]⟩

/-! ### INC and DEC -/

/-- INC and DEC for the byte `r` that they write: Z and N after it, C and V kept (R231, R232). -/
theorem exec_of_incDec (i : Instr) (s : State) {act : Byte → Byte → Byte × Byte} {r : Byte}
    (hm : i.mnemonic = .inc ∨ i.mnemonic = .dec) (hk : kindOf i.form i.mnemonic = .modify act)
    (hact : act (operandOf i s) s.p = (r, setZN r s.p)) :
    ∃ ea t, targetOf i s = .addr ea ∧ exec i s = .next t ∧ ZNSet r s.p t.p ∧
      t = { memWrite ea r (afterOperandOf i s) with
        p := t.p, cycles := s.cycles + readCycles i s } := by
  have hmod : i.mnemonic ∈ modifiers := by rcases hm with hm | hm <;> simp [hm, modifiers]
  have hacc : i.mode ≠ .acc := fun h => by
    rcases hm with hm | hm <;> simpa [hm] using mnemonic_of_mode_acc h
  obtain ⟨ea, hea, hexec⟩ := exec_of_modify_addr i s hk hact hmod hacc
  exact ⟨ea, _, hea, hexec, znSet_setZN r s.p, rfl⟩

/-- Settles O22: the forms by the table of mnemonics (`hasForms`), INC and DEC by `exec_of_incDec` on the
byte they write. -/
theorem incAndDecOfMemory : Obligations.IncAndDecOfMemory := by
  unfold Obligations.IncAndDecOfMemory
  refine ⟨hasForms .inc (by decide), hasForms .dec (by decide),
    fun i s => ⟨fun h => ?_, fun h => ?_⟩⟩
  · exact exec_of_incDec i s (act := inc) (.inl h) (by rw [h]; rfl) rfl
  · exact exec_of_incDec i s (act := dec) (.inr h) (by rw [h]; rfl) rfl

/-- Settles O23: the forms by the table of mnemonics (`hasForms`), each instruction by
`exec_of_implied_load` of its register's next or previous value. -/
theorem incAndDecOfRegisters : Obligations.IncAndDecOfRegisters := by
  unfold Obligations.IncAndDecOfRegisters
  refine ⟨hasForms .inx (by decide), hasForms .iny (by decide), hasForms .dex (by decide),
    hasForms .dey (by decide), fun s => ⟨?_, ?_, ?_, ?_⟩⟩
  · exact exec_of_implied_load .inx s (u := s) (set := setX) rfl rfl rfl rfl
  · exact exec_of_implied_load .iny s (u := s) (set := setY) rfl rfl rfl rfl
  · exact exec_of_implied_load .dex s (u := s) (set := setX) rfl rfl rfl rfl
  · exact exec_of_implied_load .dey s (u := s) (set := setY) rfl rfl rfl rfl

/-! ### Shifts and rotates -/

/-- A left shift leaves bit 0 clear, so putting the bit `c` there adds it. -/
theorem shiftLeft_or_bit0 (m : Byte) (c : Bool) :
    (m <<< 1) ||| (if c then 0x01 else 0x00) = BitVec.ofNat 8 (2 * m.toNat + c.toNat) := by
  have hclear : (m <<< 1) &&& (if c then 0x01 else 0x00) = 0 := by revert m c; decide
  rw [← BitVec.add_eq_or_of_and_eq_zero _ _ hclear, BitVec.toNat_eq]
  cases c <;> simp [Nat.shiftLeft_eq, Nat.mul_comm]

/-- A right shift leaves bit 7 clear, so putting the bit `c` there adds it with its weight. -/
theorem shiftRight_or_bit7 (m : Byte) (c : Bool) :
    (m >>> 1) ||| (if c then 0x80 else 0x00) = BitVec.ofNat 8 (m.toNat / 2 + 128 * c.toNat) := by
  have hclear : (m >>> 1) &&& (if c then 0x80 else 0x00) = 0 := by revert m c; decide
  rw [← BitVec.add_eq_or_of_and_eq_zero _ _ hclear, BitVec.toNat_eq]
  have hhalf : m.toNat / 2 < 256 := by omega
  cases c <;> simp [Nat.shiftRight_eq_div_pow, Nat.mod_eq_of_lt hhalf]

/-- A shift or rotate for its result `out` and the bit `c` that it shifts out: Z and N after the result,
on `A` in mode acc, else at an address (R237 to R240). -/
theorem exec_of_shift (i : Instr) (s : State) {act : Byte → Byte → Byte × Byte} {out : Byte} {c : Bool}
    (hm : i.mnemonic ∈ modifiers) (hk : kindOf i.form i.mnemonic = .modify act)
    (hact : act (operandOf i s) s.p = shiftResult out c s.p) :
    ∃ t, exec i s = .next t ∧ CZNSet c out s.p t.p ∧
      ((i.mode = .acc ∧ operandOf i s = s.a ∧ t = { s with
          a := out, p := t.p, cycles := s.cycles + readCycles i s }) ∨
       (i.mode ≠ .acc ∧ ∃ ea, targetOf i s = .addr ea ∧
          t = { memWrite ea out (afterOperandOf i s) with
            p := t.p, cycles := s.cycles + readCycles i s })) := by
  have hflags : CZNSet c out s.p (shiftResult out c s.p).2 := cznSet_setZN c out s.p
  by_cases hacc : i.mode = .acc
  · obtain ⟨hop, hexec⟩ := exec_of_modify_acc i s hk hact hacc
    exact ⟨_, hexec, hflags, .inl ⟨hacc, hop, rfl⟩⟩
  · obtain ⟨ea, hea, hexec⟩ := exec_of_modify_addr i s hk hact hm hacc
    exact ⟨_, hexec, hflags, .inr ⟨hacc, ea, hea, rfl⟩⟩

theorem asl_eq (m p : Byte) :
    asl m p = shiftResult (BitVec.ofNat 8 (2 * m.toNat)) (m.getLsbD 7) p := by
  have h : m <<< 1 = BitVec.ofNat 8 (2 * m.toNat) := by simpa using shiftLeft_or_bit0 m false
  rw [asl, h]

theorem lsr_eq (m p : Byte) :
    lsr m p = shiftResult (BitVec.ofNat 8 (m.toNat / 2)) (m.getLsbD 0) p := by
  have h : m >>> 1 = BitVec.ofNat 8 (m.toNat / 2) := by simpa using shiftRight_or_bit7 m false
  rw [lsr, h]

theorem rol_eq (m p : Byte) :
    rol m p = shiftResult (BitVec.ofNat 8 (2 * m.toNat + (getFlag .C p).toNat)) (m.getLsbD 7) p := by
  rw [rol, shiftLeft_or_bit0]

theorem ror_eq (m p : Byte) :
    ror m p =
      shiftResult (BitVec.ofNat 8 (m.toNat / 2 + 128 * (getFlag .C p).toNat)) (m.getLsbD 0) p := by
  rw [ror, shiftRight_or_bit7]

/-- Settles O24: the forms by the table of mnemonics (`hasForms`), each instruction by `exec_of_shift` on
its result as a number (`asl_eq`, `lsr_eq`, `rol_eq`, `ror_eq`). -/
theorem shiftsAndRotates : Obligations.ShiftsAndRotates := by
  unfold Obligations.ShiftsAndRotates
  refine ⟨hasForms .asl (by decide), hasForms .lsr (by decide), hasForms .rol (by decide),
    hasForms .ror (by decide), fun i s => ⟨fun h => ?_, fun h => ?_, fun h => ?_, fun h => ?_⟩⟩
  · exact exec_of_shift i s (by simp [h, modifiers]) (by rw [h]; rfl) (asl_eq (operandOf i s) s.p)
  · exact exec_of_shift i s (by simp [h, modifiers]) (by rw [h]; rfl) (lsr_eq (operandOf i s) s.p)
  · exact exec_of_shift i s (by simp [h, modifiers]) (by rw [h]; rfl) (rol_eq (operandOf i s) s.p)
  · exact exec_of_shift i s (by simp [h, modifiers]) (by rw [h]; rfl) (ror_eq (operandOf i s) s.p)

end Sys2Proof.Machine
end

section
/-! Jumps and subroutines (spec/45_control.md R261 and R263): JMP and RTS load `PC` after their reads, the
pointer's or the two slots', and make no read at the address they load. -/

namespace Sys2Proof.Machine

open Sys2Proof.Safety

/-- An implied instruction that loads `ea` into `PC` in a state `u` with the count of `s` (`hcycles`): the
base count, and the rest as in `u`. -/
theorem exec_of_implied_jump (i : Instr) (s : State) {u : State} {ea : Word} {act : State → State}
    (hk : kindOf i.form i.mnemonic = .implied act) (hact : act s = setPc ea u)
    (hcycles : u.cycles = s.cycles) :
    exec i s = .next { u with pc := ea, pcSet := true, cycles := s.cycles + baseOf i s } := by
  rw [exec_of_implied i s hk, hact, ← hcycles]
  rfl

/-! ### JMP -/

/-- A jump loads the address its form resolves to. -/
theorem jumpTo_of_resolve {f : Form} {s u : State} {ea : Word} (h : resolve f s = direct ea u) :
    jumpTo f s = setPc ea u := by
  rw [jumpTo, h, direct]

/-- Settles O25: the forms by the table of mnemonics (`hasForms`), each jump by `exec_of_implied_jump` on
the address its mode resolves to, in mode ind the word at the pointer (`resolve_ind`). -/
theorem jmpSetsPc : Obligations.JmpSetsPc := by
  unfold Obligations.JmpSetsPc
  refine ⟨hasForms .jmp (by decide), fun s w => ⟨?_, ?_⟩⟩
  · exact exec_of_implied_jump (.jmpAbs w) s rfl (jumpTo_of_resolve rfl) rfl
  · exact exec_of_implied_jump (.jmpInd w) s rfl (jumpTo_of_resolve (resolve_ind w s)) rfl

/-! ### RTS -/

/-- A read neither sees nor moves `S`. -/
theorem memRead_setSp (a : Word) (v : Byte) (s : State) :
    memRead a (setSp v s) = (readByte a s, setSp v (afterRead a s)) := rfl

/-- `Pull16` is two reads, low byte at the lower slot (R78), and two more in `S`. -/
theorem pull16_eq (s : State) :
    pull16 s =
      (concat (readByte (stackAddr (s.sp + 2)) (afterRead (stackAddr (s.sp + 1)) s))
        (readByte (stackAddr (s.sp + 1)) s),
      setSp (s.sp + 2) (afterRead (stackAddr (s.sp + 2)) (afterRead (stackAddr (s.sp + 1)) s))) := by
  simp only [pull16, pull, memRead_setSp, setSp_setSp, setSp_sp, byte_add_two]

/-- A return loads the pulled word plus one, in the state after the pull (R263). -/
theorem returnSub_eq (s : State) :
    returnSub s =
      setPc (concat (readByte (stackAddr (s.sp + 2)) (afterRead (stackAddr (s.sp + 1)) s))
          (readByte (stackAddr (s.sp + 1)) s) + 1)
        (setSp (s.sp + 2)
          (afterRead (stackAddr (s.sp + 2)) (afterRead (stackAddr (s.sp + 1)) s))) := by
  rw [returnSub, pull16_eq]

/-- Settles O27: the form by the table of mnemonics (`hasForms`), the return by `exec_of_implied_jump` on
the pulled word plus one (`returnSub_eq`). -/
theorem rtsReturnsPastThePulledWord : Obligations.RtsReturnsPastThePulledWord := by
  unfold Obligations.RtsReturnsPastThePulledWord
  refine ⟨hasForms .rts (by decide), fun s => ?_⟩
  exact exec_of_implied_jump .rts s rfl (returnSub_eq s) rfl

end Sys2Proof.Machine
end

section
/-! Flag instructions and NOP (spec/46_flags_misc.md R291 to R297 and R299): the seven put one flag into
`P`, and NOP leaves the state but for its count. -/

namespace Sys2Proof.Machine

open Sys2Proof.Safety

/-- An implied instruction that puts one flag: that flag alone in `P`, the base count, and the rest as
before. -/
theorem exec_of_setFlag (i : Instr) (s : State) {f : Flag} {v : Bool}
    (hk : kindOf i.form i.mnemonic = .implied (setFlag f v)) :
    ∃ t, exec i s = .next t ∧ FlagSet f v s.p t.p ∧
      t = { s with p := t.p, cycles := s.cycles + baseOf i s } := by
  refine ⟨_, exec_of_implied i s hk, ?_, rfl⟩
  rw [addCycles_p, setFlag_p]
  exact flagSet_putFlag f v s.p

/-- Settles O29: the forms by the table of mnemonics (`hasForms`), each of the seven by `exec_of_setFlag`
on its flag, NOP by its shape alone. -/
theorem flagInstructionsWriteOneFlag : Obligations.FlagInstructionsWriteOneFlag := by
  unfold Obligations.FlagInstructionsWriteOneFlag
  refine ⟨hasForms .clc (by decide), hasForms .sec (by decide), hasForms .cli (by decide),
    hasForms .sei (by decide), hasForms .cld (by decide), hasForms .sed (by decide),
    hasForms .clv (by decide), hasForms .nop (by decide), fun s => ⟨?_, ?_, ?_, ?_, ?_, ?_, ?_, ?_⟩⟩
  · exact exec_of_setFlag .clc s rfl
  · exact exec_of_setFlag .sec s rfl
  · exact exec_of_setFlag .cli s rfl
  · exact exec_of_setFlag .sei s rfl
  · exact exec_of_setFlag .cld s rfl
  · exact exec_of_setFlag .sed s rfl
  · exact exec_of_setFlag .clv s rfl
  · exact exec_of_implied .nop s rfl

end Sys2Proof.Machine
end

section
/-! Interrupts (spec/60_exceptions.md R311 to R313, R317, R323): what the latch answers, which pending
lines an instruction keeps, and what a service charges and writes, each said once. -/

namespace Sys2Proof.Machine

open Sys2Proof.Safety

/-! ### The latch -/

theorem Latch.get_eq_nmi (l : Latch) : l.get = some .nmi ↔ l.has .nmi = true := by
  unfold Latch.get
  repeat' split
  all_goals simp [Latch.has, *]

theorem Latch.get_eq_reset (l : Latch) :
    l.get = some .reset ↔ l.has .nmi = false ∧ l.has .reset = true := by
  unfold Latch.get
  repeat' split
  all_goals simp [Latch.has, *]

theorem Latch.get_eq_irq (l : Latch) :
    l.get = some .irq ↔ l.has .nmi = false ∧ l.has .reset = false ∧ l.has .irq = true := by
  unfold Latch.get
  repeat' split
  all_goals simp [Latch.has, *]

/-- Settles O32: `Get()` by the order of its tests (`Latch.get_eq_nmi`, `Latch.get_eq_reset`,
`Latch.get_eq_irq`), `Service` and `Request` by what a line's entry is after them (`Latch.has_service`,
`Latch.has_request`). -/
theorem latchOperations : Obligations.LatchOperations := by
  unfold Obligations.LatchOperations
  intro l k j
  refine ⟨l.get_eq_nmi, l.get_eq_reset, l.get_eq_irq, ?_⟩
  rw [Latch.has_service, Latch.has_request]
  by_cases hj : j = k
  · simp [hj]
  · simp [hj, Ne.symm hj]

/-! ### Pending lines under an instruction -/

theorem has_afterOperandOf {s : State} {k : Line} (i : Instr) (h : s.pending.has k = true) :
    (afterOperandOf i s).pending.has k = true := has_afterOperand _ (has_resolve _ h)

theorem has_pullA {s : State} {k : Line} (h : s.pending.has k = true) :
    (pullA s).pending.has k = true := by
  rw [pullA, loadReg, setP_pending, setA_pending]
  exact has_pull h

theorem has_pullP {s : State} {k : Line} (h : s.pending.has k = true) :
    (pullP s).pending.has k = true := has_pull h

theorem has_callSub {s : State} {k : Line} (ea : Word) (h : s.pending.has k = true) :
    (callSub ea s).pending.has k = true := by
  rw [callSub, setPc_pending]
  exact has_push16 (s.pc - 1) h

theorem has_returnSub {s : State} {k : Line} (h : s.pending.has k = true) :
    (returnSub s).pending.has k = true := by
  rw [returnSub, setPc_pending]
  exact has_pull16 h

theorem has_returnFromInterrupt {s : State} {k : Line} (h : s.pending.has k = true) :
    (returnFromInterrupt s).pending.has k = true := by
  rw [returnFromInterrupt, setPc_pending]
  exact has_pull16 (has_pull h)

theorem has_jumpTo {s : State} {k : Line} (f : Form) (h : s.pending.has k = true) :
    (jumpTo f s).pending.has k = true := by
  unfold jumpTo
  simp only
  split <;> exact has_resolve f h

theorem has_branch {s : State} {k : Line} (c : Bool) (o : Byte) (h : s.pending.has k = true) :
    (branch c o s).pending.has k = true := by
  cases c
  · exact h
  · exact has_afterRead _ h

/-- What a shape does with the operand, or with the whole state, drops no pending line. The other shapes
carry no act on the state. -/
def Kind.ActKeepsLines : Kind → Prop
  | .read act => ∀ v s, (act v s).pending = s.pending
  | .implied act => ∀ (s : State) (k : Line), s.pending.has k = true → (act s).pending.has k = true
  | .store _ | .modify _ | .branch .. | .brk | .undefined => True

theorem kindOf_actKeepsLines (f : Form) (m : Mnemonic) : (kindOf f m).ActKeepsLines := by
  cases m
  case pha => exact fun s k => has_push s.a
  case php => exact fun s k => has_push s.p
  case pla => exact fun s k => has_pullA
  case plp => exact fun s k => has_pullP
  case jmp => exact fun s k => has_jumpTo f
  case jsr => exact fun s k => has_callSub (formWord f)
  case rts => exact fun s k => has_returnSub
  case rti => exact fun s k => has_returnFromInterrupt
  all_goals
    simp [kindOf, Kind.ActKeepsLines, loadReg, andA, orA, eorA, bitA, adcA, sbcA, cmpReg]

theorem mnemonic_of_kindOf_brk {f : Form} {m : Mnemonic} (h : kindOf f m = .brk) : m = .brk := by
  cases m
  case brk => rfl
  all_goals cases h

/-- A pending line stays pending through every instruction, but IRQ through BRK, whose own service clears
it (R320, D12). -/
theorem exec_keeps_line {i : Instr} {s t : State} {k : Line} (h : exec i s = .next t)
    (hk : s.pending.has k = true) (hb : ¬(i.mnemonic = .brk ∧ k = .irq)) :
    t.pending.has k = true := by
  have hkeep := kindOf_actKeepsLines i.form i.mnemonic
  cases hkind : kindOf i.form i.mnemonic with
  | read act =>
    rw [hkind] at hkeep; rw [exec_of_read i s hkind] at h; cases h
    rw [addCycles_pending, hkeep]
    exact has_afterOperandOf i hk
  | store v =>
    rw [exec_of_store i s hkind] at h; cases h
    exact has_writeOperand _ _ (has_resolve _ hk)
  | modify act =>
    rw [exec_of_modify i s hkind] at h; cases h
    exact has_writeOperand _ _ (has_afterOperandOf i hk)
  | implied act =>
    rw [hkind] at hkeep; rw [exec_of_implied i s hkind] at h; cases h
    exact hkeep s k hk
  | branch fl want o =>
    rw [exec_of_branch i s hkind] at h; cases h
    exact has_branch _ o hk
  | brk =>
    have hm : i.mnemonic = .brk := mnemonic_of_kindOf_brk hkind
    have hne : k ≠ .irq := fun hi => hb ⟨hm, hi⟩
    rw [exec_eq, hkind] at h
    obtain ⟨-, rfl⟩ := execBrk_next h
    exact has_enterHandler hne (has_pushFrame true hk)
  | undefined =>
    rw [exec_eq, hkind] at h; cases h
    exact hk

/-! ### The IRQ gate -/

/-- Settles O33: with `P.I = 1` no line is taken (`takenLine_eq_some`), so the step is the instruction
(`step_exec`), and neither its fetch (`has_commitFetch`) nor its meaning (`exec_keeps_line`) drops the IRQ;
with `P.I = 0` the IRQ is the line the step services (`step_service`). -/
theorem irqGateAtStepEntry : Obligations.IrqGateAtStepEntry := by
  unfold Obligations.IrqGateAtStepEntry
  intro s hr hget
  obtain ⟨-, -, hirq⟩ := s.pending.get_eq_irq.1 hget
  refine ⟨fun hI hpc => ?_, fun hI => ?_⟩
  · have hnone : takenLine s = none := by simp [takenLine, hget, hI]
    have hstep := step_exec ⟨hr, hnone, hpc⟩
    have hfetch := has_commitFetch (nextInstr s).mode hirq
    refine ⟨hstep, hfetch, fun t ht hb => ?_⟩
    exact exec_keeps_line (hstep ▸ ht) hfetch (fun h => hb h.1)
  · exact step_service hr (takenLine_eq_some.2 ⟨hget, by simp [hI]⟩)

/-! ### What a service charges and writes -/

theorem service_cycles {k : Line} {brk : Bool} {s t : State}
    (h : serviceInterrupt k brk s = .next t) : t.cycles = s.cycles + 7 := by
  rcases service_cases h with ⟨-, rfl⟩ | ⟨-, -, rfl⟩ <;> simp

/-- A service leaves `A`, `X` and `Y`, and of `P` it sets the I flag alone (R320). -/
theorem service_registers {k : Line} {brk : Bool} {s t : State}
    (h : serviceInterrupt k brk s = .next t) :
    t.a = s.a ∧ t.x = s.x ∧ t.y = s.y ∧ t.p = putFlag .I true s.p := by
  rcases service_cases h with ⟨-, rfl⟩ | ⟨-, -, rfl⟩ <;> simp

/-- RESET's service always answers a next state, the others where `PC` holds a value (R320). -/
theorem service_answers {k : Line} (brk : Bool) {s : State} (h : k = .reset ∨ s.pcSet = true) :
    ∃ t, serviceInterrupt k brk s = .next t := by
  by_cases hk : k = .reset
  · exact ⟨_, hk ▸ service_reset brk s⟩
  · exact ⟨_, service_other brk hk (h.resolve_left hk)⟩

theorem stepCycles_of_next {s t : State} (h : step s = .next t) :
    stepCycles s = some (t.cycles - s.cycles) := by
  rw [stepCycles, h]

/-- Settles O44: the count by `service_cycles`; a step that takes a line is its service (`step_service`),
which answers (`service_answers`) and leaves what `service_registers` and `service_run` say. -/
theorem serviceChargesSevenCycles : Obligations.ServiceChargesSevenCycles := by
  unfold Obligations.ServiceChargesSevenCycles
  refine ⟨fun s t k brk => service_cycles, fun s k hr hk hpc => ?_⟩
  obtain ⟨t, ht⟩ := service_answers false hpc
  have hstep : step s = .next t := (step_service hr hk).trans ht
  have hcycles := service_cycles ht
  obtain ⟨ha, hx, hy, hp⟩ := service_registers ht
  refine ⟨t, hstep, ht, hcycles, ?_, ha, hx, hy, (service_run ht).trans hr, ?_⟩
  · rw [stepCycles_of_next hstep, hcycles, Nat.add_sub_cancel_left]
  · rw [hp]
    exact flagSet_putFlag .I true s.p

end Sys2Proof.Machine
end

section
/-! Encoding (spec/30_encoding.md R92 to R102, table 3): decoding inverts encoding, encoding inverts
decoding, and the two sets of opcode bytes that the table names. -/

namespace Sys2Proof.Machine

open Sys2Proof.Safety Sys2Proof.Laws

/-! ### Decoding an encoding -/

/-- One lemma of `Laws.RoundTrip` a constructor, in the order of the table. -/
theorem decode_encode (i : Instr) : RoundTrip.Statement i := by
  open RoundTrip in
  cases i
  exacts [ldaImm _, ldaZpg _, ldaZpgX _, ldaAbs _, ldaAbsX _, ldaAbsY _, ldaXInd _, ldaIndY _,
    ldxImm _, ldxZpg _, ldxZpgY _, ldxAbs _, ldxAbsY _,
    ldyImm _, ldyZpg _, ldyZpgX _, ldyAbs _, ldyAbsX _,
    staZpg _, staZpgX _, staAbs _, staAbsX _, staAbsY _, staXInd _, staIndY _,
    stxZpg _, stxZpgY _, stxAbs _, styZpg _, styZpgX _, styAbs _,
    tax, tay, txa, tya, tsx, txs, pha, pla, php, plp,
    andImm _, andZpg _, andZpgX _, andAbs _, andAbsX _, andAbsY _, andXInd _, andIndY _,
    oraImm _, oraZpg _, oraZpgX _, oraAbs _, oraAbsX _, oraAbsY _, oraXInd _, oraIndY _,
    eorImm _, eorZpg _, eorZpgX _, eorAbs _, eorAbsX _, eorAbsY _, eorXInd _, eorIndY _,
    bitZpg _, bitAbs _,
    adcImm _, adcZpg _, adcZpgX _, adcAbs _, adcAbsX _, adcAbsY _, adcXInd _, adcIndY _,
    sbcImm _, sbcZpg _, sbcZpgX _, sbcAbs _, sbcAbsX _, sbcAbsY _, sbcXInd _, sbcIndY _,
    cmpImm _, cmpZpg _, cmpZpgX _, cmpAbs _, cmpAbsX _, cmpAbsY _, cmpXInd _, cmpIndY _,
    cpxImm _, cpxZpg _, cpxAbs _, cpyImm _, cpyZpg _, cpyAbs _,
    incZpg _, incZpgX _, incAbs _, incAbsX _, decZpg _, decZpgX _, decAbs _, decAbsX _,
    inx, iny, dex, dey,
    aslAcc, aslZpg _, aslZpgX _, aslAbs _, aslAbsX _, lsrAcc, lsrZpg _, lsrZpgX _, lsrAbs _, lsrAbsX _,
    rolAcc, rolZpg _, rolZpgX _, rolAbs _, rolAbsX _, rorAcc, rorZpg _, rorZpgX _, rorAbs _, rorAbsX _,
    jmpAbs _, jmpInd _, jsr _, rts, rti,
    bcc _, bcs _, beq _, bmi _, bne _, bpl _, bvc _, bvs _,
    clc, sec, cli, sei, cld, sed, clv, brk, nop, undefinedHalt _]

/-- Settles O1: the round trip of each constructor (`decode_encode`). -/
theorem decodeOfEncodeIsTheInstruction : Obligations.DecodeOfEncodeIsTheInstruction := by
  unfold Obligations.DecodeOfEncodeIsTheInstruction
  exact fun i rest hwf => decode_encode i hwf rest

/-- Settles O4: each sequence is the encoding of its instruction (`decode_encode`). -/
theorem writtenOutWordsDecode : Obligations.WrittenOutWordsDecode := by
  unfold Obligations.WrittenOutWordsDecode
  exact ⟨decode_encode (.ldaAbsX 0x1234) rfl [], decode_encode (.staIndY 0x10) rfl [],
    decode_encode .txs rfl [], decode_encode (.sbcXInd 0xFE) rfl [],
    decode_encode (.rorAbs 0x0300) rfl [], decode_encode (.jmpInd 0x10FF) rfl [],
    decode_encode (.bne 0xFB) rfl [], decode_encode .brk rfl [],
    decode_encode (.undefinedHalt 0x02) rfl []⟩

/-! ### Encoding what was decoded -/

/-- What `encode` makes of an instruction: well formed, these bytes, as many as its mode fixes. -/
structure EncodesAs (i : Instr) (bs : List Byte) : Prop where
  wf : i.wf = true
  bytes : encode i = bs
  length : bs.length = i.mode.length

/-- A shape's instructions are encoded as the opcode and the operand bytes they were made of. -/
def ShapeEncodesAs (op : Byte) : Shape → Prop
  | .single i => EncodesAs i [op]
  | .withByte f => ∀ o, EncodesAs (f o) [op, o]
  | .withWord f => ∀ w, EncodesAs (f w) [op, lo8 w, hi8 w]

theorem opcodeMap_encodesAs {row : MapRow} (hrow : row ∈ opcodeMap) :
    ShapeEncodesAs row.op row.shape := by
  revert row
  -- The list becomes a conjunction, one part a row; each part evaluates.
  simp only [opcodeMap, opcodeRow0, opcodeRow1, opcodeRow2, opcodeRow3, opcodeRow4, opcodeRow5,
    opcodeRow6, opcodeRow7, opcodeRow8, opcodeRow9, opcodeRowA, opcodeRowB, opcodeRowC, opcodeRowD,
    opcodeRowE, opcodeRowF, List.cons_append, List.nil_append, List.forall_mem_cons,
    List.not_mem_nil, false_imp_iff, implies_true, and_true, ShapeEncodesAs]
  and_intros
  all_goals
    intros
    exact ⟨rfl, rfl, rfl⟩

/-- The map and the undefined bytes cover all 256. The bytes are compared as numbers, which the kernel does
fast. -/
theorem opcodes_cover : ∀ b : Byte, (opcodeMap.any (fun row => row.op.toNat.beq b.toNat) ||
    undefinedOpcodes.any (fun op => op.toNat.beq b.toNat)) = true := by decide

/-- Every byte that the map does not list is an undefined one (R99). -/
theorem mem_undefinedOpcodes_of_find?_eq_none {op : Byte}
    (h : opcodeMap.find? (fun row => row.op == op) = none) : op ∈ undefinedOpcodes := by
  rcases (Bool.or_eq_true _ _).mp (opcodes_cover op) with hmap | hundef
  · obtain ⟨row, hrow, heq⟩ := List.any_eq_true.1 hmap
    have hop : row.op = op := BitVec.eq_of_toNat_eq (Nat.eq_of_beq_eq_true heq)
    exact absurd (beq_iff_eq.2 hop) (List.find?_eq_none.1 h row hrow)
  · obtain ⟨o, ho, heq⟩ := List.any_eq_true.1 hundef
    exact BitVec.eq_of_toNat_eq (Nat.eq_of_beq_eq_true heq) ▸ ho

theorem shapeOf_encodesAs (op : Byte) : ShapeEncodesAs op (shapeOf op) := by
  unfold shapeOf
  split
  case h_1 row hrow =>
    have hop : row.op = op := by simpa using List.find?_some hrow
    exact hop ▸ opcodeMap_encodesAs (List.mem_of_find?_eq_some hrow)
  case h_2 hnone =>
    exact ⟨List.contains_iff_mem.2 (mem_undefinedOpcodes_of_find?_eq_none hnone), rfl, rfl⟩

/-- Decoded bytes are an encoding and the bytes after it: by the opcode's shape and the operand bytes the
decoder takes for it. -/
theorem encodesAs_of_decode {bs rest : List Byte} {i : Instr} (h : decode bs = .ok i rest) :
    ∃ taken, EncodesAs i taken ∧ taken ++ rest = bs := by
  cases bs with
  | nil => cases h
  | cons op tail =>
    have hop := shapeOf_encodesAs op
    cases hshape : shapeOf op <;> simp only [decode, hshape] at h <;> rw [hshape] at hop
    case single j => cases h; exact ⟨_, hop, rfl⟩
    case withByte f =>
      rcases tail with _ | ⟨o, tail⟩ <;> cases h
      exact ⟨_, hop o, rfl⟩
    case withWord f =>
      rcases tail with _ | ⟨lo, _ | ⟨hi, tail⟩⟩ <;> cases h
      exact ⟨_, hop (concat hi lo), by simp⟩

/-- Settles O2: the decoded bytes are the encoding and the rest (`encodesAs_of_decode`). -/
theorem encodeOfDecodeIsTheBytes : Obligations.EncodeOfDecodeIsTheBytes := by
  unfold Obligations.EncodeOfDecodeIsTheBytes
  intro bs rest i h
  obtain ⟨taken, ⟨hwf, rfl, hlen⟩, rfl⟩ := encodesAs_of_decode h
  exact ⟨hwf, rfl, hlen⟩

/-! ### The two sets of opcode bytes -/

/-- Settles O3: a byte that decodes to the halting row makes it well formed (`encodesAs_of_decode`), and an
undefined byte decodes to it (`decode_encode`). -/
theorem undefinedBytesAreExactly105 : Obligations.UndefinedBytesAreExactly105 := by
  unfold Obligations.UndefinedBytesAreExactly105
  refine ⟨by decide, by decide, fun op rest => ⟨fun h => ?_, fun h => ?_⟩⟩
  · obtain ⟨taken, ⟨hwf, -, -⟩, -⟩ := encodesAs_of_decode h
    exact List.contains_iff_mem.1 hwf
  · exact decode_encode (.undefinedHalt op) (List.contains_iff_mem.2 h) rest

/-- Of a mnemonic's listed forms the flagged ones are the indexed reads. -/
theorem pageCrossTable_formsOf (m : Mnemonic) : (formsOf m).all (fun e =>
    decide (pageCrossTable.contains e.1 = true ↔ e.2 ∈ [Mode.absX, .absY, .indY] ∧
      m ∈ [Mnemonic.adc, .and, .cmp, .eor, .lda, .ldx, .ldy, .ora, .sbc])) = true := by
  cases m <;> rfl

theorem undefinedOpcodes_not_flagged :
    undefinedOpcodes.all (fun op => !pageCrossTable.contains op) = true := by decide

/-- Settles O5: a documented opcode is a form of its mnemonic (`mem_formsOf`), flagged if it is an indexed
read (`pageCrossTable_formsOf`); no undefined byte is flagged (`undefinedOpcodes_not_flagged`). -/
theorem pageCrossFlagIsOnIndexedReads : Obligations.PageCrossFlagIsOnIndexedReads := by
  unfold Obligations.PageCrossFlagIsOnIndexedReads
  refine ⟨rfl, by decide, fun i hwf => ?_⟩
  by_cases hm : i.mnemonic = .unimplemented
  · obtain ⟨op, rfl⟩ : ∃ op, i = .undefinedHalt op := by
      revert hm; cases i <;> simp [Instr.mnemonic]
    have hop := List.all_eq_true.1 undefinedOpcodes_not_flagged op (List.contains_iff_mem.1 hwf)
    have hflag : pageCrossFlag Params.standard (Instr.undefinedHalt op).opcode =
      pageCrossTable.contains op := rfl
    rw [hflag, (Bool.not_eq_true' _).mp hop]
    simp [Instr.mnemonic]
  · exact of_decide_eq_true (List.all_eq_true.1 (pageCrossTable_formsOf i.mnemonic) _ (mem_formsOf i hm))

end Sys2Proof.Machine
end

section
/-! PLP, RTI and JSR (spec/42_transfer_stack.md R190, spec/45_control.md R262 and R264): the pulled status
byte, and the word pulled or pushed with it, by the equations of the stack's operations. -/

namespace Sys2Proof.Machine

open Sys2Proof.Safety

theorem pullP_eq (s : State) :
    pullP s = setP (pulledStatus (readByte (stackAddr (s.sp + 1)) s))
      (setSp (s.sp + 1) (afterRead (stackAddr (s.sp + 1)) s)) := rfl

/-- A return from an interrupt is three reads, the status at the lowest slot, and three more in `S`
(R264). -/
theorem returnFromInterrupt_eq (s : State) :
    returnFromInterrupt s =
      setP (pulledStatus (readByte (stackAddr (s.sp + 1)) s))
        (setPc (concat
            (readByte (stackAddr (s.sp + 3))
              (afterRead (stackAddr (s.sp + 2)) (afterRead (stackAddr (s.sp + 1)) s)))
            (readByte (stackAddr (s.sp + 2)) (afterRead (stackAddr (s.sp + 1)) s)))
          (setSp (s.sp + 3) (afterRead (stackAddr (s.sp + 3))
            (afterRead (stackAddr (s.sp + 2)) (afterRead (stackAddr (s.sp + 1)) s))))) := by
  have h2 : s.sp + 1 + 1 = s.sp + 2 := byte_add_two s.sp
  have h3 : s.sp + 1 + 2 = s.sp + 3 := by rw [BitVec.add_assoc]; rfl
  simp only [returnFromInterrupt, pull_eq, pull16_eq, setP_sp, setSp_sp, h2, h3]
  rfl

/-- An instruction that pulls the status byte in a state `u` with the count of `s` (`hcycles`): every flag
is the pulled byte's but U, which is 1. -/
theorem exec_of_pulledStatus (i : Instr) (s : State) {u : State} {v : Byte} {act : State → State}
    (hk : kindOf i.form i.mnemonic = .implied act) (hact : act s = setP (pulledStatus v) u)
    (hcycles : u.cycles = s.cycles) :
    ∃ t, exec i s = .next t ∧ (∀ f, getFlag f t.p = if f = .U then true else getFlag f v) ∧
      t = { u with p := t.p, cycles := s.cycles + baseOf i s } := by
  refine ⟨_, exec_of_implied i s hk, fun f => ?_, ?_⟩
  · rw [hact]
    exact getFlag_pulledStatus f v
  · rw [hact, ← hcycles]
    rfl

/-- Settles O14: the forms by the table of mnemonics (`hasForms`), both by `exec_of_pulledStatus` on the
state after their pulls (`pullP_eq`, `returnFromInterrupt_eq`). -/
theorem plpAndRtiRestore : Obligations.PlpAndRtiRestore := by
  unfold Obligations.PlpAndRtiRestore
  refine ⟨hasForms .plp (by decide), hasForms .rti (by decide), fun s => ⟨?_, ?_⟩⟩
  · exact exec_of_pulledStatus .plp s rfl (pullP_eq s) rfl
  · exact exec_of_pulledStatus .rti s rfl (returnFromInterrupt_eq s) rfl

/-- Settles O26: the form by the table of mnemonics (`hasForms`), the jump by `exec_of_implied_jump` after
the two writes of `Push16` (`push16_eq`). -/
theorem jsrPushesReturnAddress : Obligations.JsrPushesReturnAddress := by
  unfold Obligations.JsrPushesReturnAddress
  refine ⟨hasForms .jsr (by decide), fun s w => ?_⟩
  exact exec_of_implied_jump (.jsr w) s rfl (congrArg (setPc w) (push16_eq (s.pc - 1) s)) rfl

end Sys2Proof.Machine
end

section
/-! The state after an instruction, said once for all 152 rows (`exec_next`), and from it the bus calls of
every step (spec/40_step_and_addressing.md R142, R145). -/

namespace Sys2Proof.Machine

open Sys2Proof.Safety

/-! ### The acts as updates of the state -/

@[simp] theorem loadReg_eq (set : Byte → State → State) (v : Byte) (s : State) :
    loadReg set v s = setP (setZN v s.p) (set v s) := rfl
@[simp] theorem andA_eq (m : Byte) (s : State) : andA m s = loadReg setA (s.a &&& m) s := rfl
@[simp] theorem orA_eq (m : Byte) (s : State) : orA m s = loadReg setA (s.a ||| m) s := rfl
@[simp] theorem eorA_eq (m : Byte) (s : State) : eorA m s = loadReg setA (s.a ^^^ m) s := rfl
@[simp] theorem bitA_eq (m : Byte) (s : State) : bitA m s = setP (bitFlags s.a m s.p) s := rfl
@[simp] theorem adcA_eq (m : Byte) (s : State) :
    adcA m s = setA (adcOut s.a m s.p) (setP (adcFlags s.a m s.p) s) := rfl
@[simp] theorem sbcA_eq (m : Byte) (s : State) :
    sbcA m s = setA (sbcOut s.a m s.p) (setP (sbcFlags s.a m s.p) s) := rfl
@[simp] theorem cmpReg_eq (r m : Byte) (s : State) : cmpReg r m s = setP (cmpFlags r m s.p) s := rfl
@[simp] theorem callSub_eq (ea : Word) (s : State) :
    callSub ea s = setPc ea (push16 (s.pc - 1) s) := rfl

/-! ### The state after an instruction -/

/-- The state that a shape leaves, where it answers one. -/
def Kind.result (i : Instr) (s : State) : Kind → State
  | .read act => addCycles (baseOf i s) (act (operandOf i s)
      (addCycles (crossCycles s.params i.opcode (resolve i.form s).crossed) (afterOperandOf i s)))
  | .store v => addCycles (baseOf i s) (writeOperand (targetOf i s) (v s) (afterResolve i s))
  | .modify act => addCycles (baseOf i s) (setP (act (operandOf i s) s.p).2
      (writeOperand (targetOf i s) (act (operandOf i s) s.p).1
        (addCycles (crossCycles s.params i.opcode (resolve i.form s).crossed) (afterOperandOf i s))))
  | .implied act => addCycles (baseOf i s) (act s)
  | .branch fl want o => addCycles (baseOf i s) (Machine.branch (getFlag fl s.p == want) o s)
  | .brk => addCycles (baseCycles s.params 0x00) (enterHandler .irq (pushFrame true s))
  | .undefined => halt s

theorem execBrk_of_pcSet {s : State} (h : s.pcSet = true) :
    execBrk s = .next (addCycles (baseCycles s.params 0x00) (enterHandler .irq (pushFrame true s))) := by
  rw [execBrk, service_other true (by decide) h]

theorem execBrk_of_unset {s : State} (h : s.pcSet = false) : execBrk s = .fault .pcUnset := by
  rw [execBrk, service_unset true (by decide) h]

/-- Every instruction answers its shape's state; BRK needs a `PC` that holds a value. -/
theorem exec_eq_result (i : Instr) {s : State} (h : i.mnemonic = .brk → s.pcSet = true) :
    exec i s = .next ((kindOf i.form i.mnemonic).result i s) := by
  cases hk : kindOf i.form i.mnemonic with
  | read act => exact exec_of_read i s hk
  | store v => exact exec_of_store i s hk
  | modify act => exact exec_of_modify i s hk
  | implied act => exact exec_of_implied i s hk
  | branch fl want o => exact exec_of_branch i s hk
  | brk => rw [exec_eq, hk]; exact execBrk_of_pcSet (h (mnemonic_of_kindOf_brk hk))
  | undefined => rw [exec_eq, hk]; rfl

/-- The one state that an instruction can answer. -/
theorem exec_next {i : Instr} {s t : State} (h : exec i s = .next t) :
    t = (kindOf i.form i.mnemonic).result i s := by
  by_cases hp : i.mnemonic = .brk → s.pcSet = true
  · rw [exec_eq_result i hp] at h
    cases h
    rfl
  · obtain ⟨hm, hunset⟩ := Classical.not_imp.1 hp
    rw [exec_eq, hm] at h
    cases (execBrk_of_unset (Bool.eq_false_of_not_eq_true hunset)).symm.trans h

/-! ### The bus calls of an instruction (R145) -/

@[simp] theorem callsIn_setA (v : Byte) (s : State) : callsIn (setA v s) = callsIn s := rfl
@[simp] theorem callsIn_setX (v : Byte) (s : State) : callsIn (setX v s) = callsIn s := rfl
@[simp] theorem callsIn_setY (v : Byte) (s : State) : callsIn (setY v s) = callsIn s := rfl
@[simp] theorem callsIn_setSp (v : Byte) (s : State) : callsIn (setSp v s) = callsIn s := rfl
@[simp] theorem callsIn_setP (v : Byte) (s : State) : callsIn (setP v s) = callsIn s := rfl
@[simp] theorem callsIn_setPc (v : Word) (s : State) : callsIn (setPc v s) = callsIn s := rfl
@[simp] theorem callsIn_addCycles (n : Nat) (s : State) : callsIn (addCycles n s) = callsIn s := rfl
@[simp] theorem callsIn_setFlag (f : Flag) (v : Bool) (s : State) :
    callsIn (setFlag f v s) = callsIn s := rfl
@[simp] theorem callsIn_clearLine (k : Line) (s : State) : callsIn (clearLine k s) = callsIn s := rfl
@[simp] theorem callsIn_halt (s : State) : callsIn (halt s) = callsIn s := rfl
@[simp] theorem callsIn_afterRead (a : Word) (s : State) :
    callsIn (afterRead a s) = .R a :: callsIn s := rfl
@[simp] theorem callsIn_memWrite (a : Word) (v : Byte) (s : State) :
    callsIn (memWrite a v s) = .W a :: callsIn s := rfl

@[simp] theorem callsIn_push (v : Byte) (s : State) :
    callsIn (push v s) = .W (stackAddr s.sp) :: callsIn s := rfl
@[simp] theorem callsIn_pull (s : State) :
    callsIn (pull s).2 = .R (stackAddr (s.sp + 1)) :: callsIn s := rfl
@[simp] theorem callsIn_push16 (w : Word) (s : State) :
    callsIn (push16 w s) = .W (stackAddr (s.sp - 1)) :: .W (stackAddr s.sp) :: callsIn s := by
  rw [push16_eq]; rfl
@[simp] theorem callsIn_pull16 (s : State) :
    callsIn (pull16 s).2 = .R (stackAddr (s.sp + 2)) :: .R (stackAddr (s.sp + 1)) :: callsIn s := by
  rw [pull16_eq]; rfl

/-- The next address in the page keeps the high byte (R64). -/
theorem nextInPage_eq (a : Word) : nextInPage a = concat (hi8 a) (lo8 a + 1) := by
  have hhi : hi8 (nextInPage a) = hi8 a := by
    simp only [hi8, nextInPage, BitVec.extractLsb'_or, BitVec.extractLsb'_and]
    exact (congrArg₂ _ BitVec.and_allOnes BitVec.and_zero).trans BitVec.or_zero
  have hlo : lo8 (nextInPage a) = lo8 a + 1 := by
    simp only [lo8_eq_setWidth, nextInPage, BitVec.setWidth_or, BitVec.setWidth_and]
    exact (congrArg₂ _ BitVec.and_zero BitVec.and_allOnes).trans
      (BitVec.zero_or.trans (BitVec.setWidth_add a 1 (by decide)))
  rw [← hhi, ← hlo, concat_hi8_lo8]

theorem callsIn_resolve (f : Form) (s : State) :
    callsIn (resolve f s).st = (pointerCalls f s).reverse ++ callsIn s := by
  cases f
  case ind w =>
    rw [resolve_ind, pointerCalls, ← nextInPage_eq]; rfl
  case xInd o => rw [resolve_xInd, pointerCalls, ← pointerHigh_zext]; rfl
  case indY o => rw [resolve_indY, pointerCalls, ← pointerHigh_zext]; rfl
  all_goals rfl

theorem callsIn_afterOperand (t : Target) (s : State) :
    callsIn (afterOperand t s) = (operandCalls t).reverse ++ callsIn s := by
  cases t <;> rfl

theorem callsIn_writeOperand (t : Target) (v : Byte) (s : State) :
    callsIn (writeOperand t v s) = (resultCalls t).reverse ++ callsIn s := by
  cases t <;> rfl

theorem callsIn_afterOperandOf (i : Instr) (s : State) :
    callsIn (afterOperandOf i s) =
      (pointerCalls i.form s ++ operandCalls (targetOf i s)).reverse ++ callsIn s := by
  rw [afterOperandOf, callsIn_afterOperand, afterResolve, callsIn_resolve, List.reverse_append,
    List.append_assoc]

theorem callsIn_jumpTo (f : Form) (s : State) :
    callsIn (jumpTo f s) = (pointerCalls f s).reverse ++ callsIn s := by
  rw [← callsIn_resolve]
  unfold jumpTo
  simp only
  split <;> rfl

theorem callsIn_branch (c : Bool) (o : Byte) (s : State) :
    callsIn (branch c o s) = (if c then [.R (s.pc - 1)] else []).reverse ++ callsIn s := by
  cases c <;> rfl

theorem callsIn_pushFrame (brk : Bool) (s : State) :
    callsIn (pushFrame brk s) = .W (stackAddr (s.sp - 2)) :: .W (stackAddr (s.sp - 1)) ::
      .W (stackAddr s.sp) :: callsIn s := by
  rw [pushFrame_eq, framed]
  rfl

/-- The vector's two reads; none in the variant that loads `0xC000` (R322). -/
theorem callsIn_enterHandler (k : Line) (s : State) :
    callsIn (enterHandler k s) =
      (if k == .reset && s.params.resetOverrideC000 then []
        else [.R (vectorOf k + 1), .R (vectorOf k)]) ++ callsIn s := by
  cases h : k == .reset && s.params.resetOverrideC000
  · rw [enterHandler_eq k s h]; rfl
  · rw [Bool.and_eq_true, beq_iff_eq] at h
    obtain ⟨rfl, h⟩ := h
    rw [enterHandler_override s h]; rfl

/-- The calls of an instruction, mnemonic by mnemonic. -/
theorem callsIn_result (i : Instr) (s : State) :
    callsIn ((kindOf i.form i.mnemonic).result i s) = (execCalls i s).reverse ++ callsIn s := by
  cases hm : i.mnemonic
  all_goals
    simp [Kind.result, kindOf, execCalls, hm, readers, storers, modifiers, branches, branchTaken, vectorOf,
      afterResolve, callsIn_afterOperandOf, callsIn_writeOperand, callsIn_resolve, callsIn_jumpTo,
      callsIn_branch, callsIn_pushFrame, callsIn_enterHandler, pullA_eq, pullP_eq, returnSub_eq,
      returnFromInterrupt_eq]

/-! ### The bus calls of a step -/

theorem callsIn_service {k : Line} {brk : Bool} {s t : State} (h : serviceInterrupt k brk s = .next t) :
    callsIn t = (serviceCalls k s).reverse ++ callsIn s := by
  rcases service_cases h with ⟨rfl, rfl⟩ | ⟨hk, -, rfl⟩
  · rw [callsIn_enterHandler, serviceCalls]
    cases s.params.resetOverrideC000 <;> rfl
  · rw [callsIn_enterHandler, callsIn_pushFrame]
    cases k
    case reset => exact absurd rfl hk
    all_goals rfl

/-- Settles O47: by the cases of a step (`step_cases`): nothing, a service (`callsIn_service`), or the fetch
(`commitFetch_calls`) and the instruction (`callsIn_result`). -/
theorem busCallsOfAStep : Obligations.BusCallsOfAStep := by
  unfold Obligations.BusCallsOfAStep
  intro s t h
  unfold stepCalls
  rcases step_cases h with ⟨hr, rfl⟩ | ⟨hr, k, hk, hs⟩ | ⟨⟨hr, hk, -⟩, hx⟩
  · simp [hr]
  · simpa [hr, hk] using callsIn_service hs
  · simp [hr, hk, exec_next hx, callsIn_result, commitFetch_calls]

end Sys2Proof.Machine
end

section
/-! What every instruction and every step leaves as it was (spec/10_state.md R26 to R36, spec/00_scope.md R9,
spec/20_memory.md R62): one lemma a field, over the result of all shapes. -/

namespace Sys2Proof.Machine

open Sys2Proof.Safety

/-! ### `PC` holds a value -/

@[simp] theorem jumpTo_pcSet {s : State} (f : Form) (h : s.pcSet = true) : (jumpTo f s).pcSet = true := by
  unfold jumpTo
  simp only
  split <;> simp [h]

@[simp] theorem branch_pcSet {s : State} (c : Bool) (o : Byte) (h : s.pcSet = true) :
    (branch c o s).pcSet = true := by
  cases c
  · exact h
  · rfl

theorem result_pcSet (i : Instr) {s : State} (h : s.pcSet = true) :
    ((kindOf i.form i.mnemonic).result i s).pcSet = true := by
  cases hm : i.mnemonic <;>
    simp [Kind.result, kindOf, h, afterResolve, pullA_eq, pullP_eq, returnSub_eq, returnFromInterrupt_eq]

/-- Settles O41: the instruction answers its shape's state (`exec_eq_result`), in which `PC` holds a value
(`result_pcSet`). -/
theorem everyInstructionCompletes : Obligations.EveryInstructionCompletes := by
  unfold Obligations.EveryInstructionCompletes
  exact fun i s h => ⟨_, exec_eq_result i fun _ => h, result_pcSet i h⟩

/-! ### Parameters and routes -/

theorem result_params (i : Instr) (s : State) :
    ((kindOf i.form i.mnemonic).result i s).params = s.params := by
  cases hm : i.mnemonic <;>
    simp [Kind.result, kindOf, afterResolve, pullA_eq, pullP_eq, returnSub_eq, returnFromInterrupt_eq]

theorem result_routes (i : Instr) (s : State) :
    ((kindOf i.form i.mnemonic).result i s).routes = s.routes := by
  cases hm : i.mnemonic <;>
    simp [Kind.result, kindOf, afterResolve, pullA_eq, pullP_eq, returnSub_eq, returnFromInterrupt_eq]

theorem service_configuration {k : Line} {brk : Bool} {s t : State}
    (h : serviceInterrupt k brk s = .next t) : t.params = s.params ∧ t.routes = s.routes := by
  rcases service_cases h with ⟨-, rfl⟩ | ⟨-, -, rfl⟩ <;> simp

/-- Settles O59: by the cases of a step (`step_cases`), a service (`service_configuration`) or the fetch and
an instruction (`result_params`, `result_routes`); the pending lines by `exec_keeps_line`. -/
theorem configurationAndPendingLinesAreKept : Obligations.ConfigurationAndPendingLinesAreKept := by
  unfold Obligations.ConfigurationAndPendingLinesAreKept
  refine ⟨fun s t h => ?_, fun i s t k h hk hb => exec_keeps_line h hk hb⟩
  rcases step_cases h with ⟨-, rfl⟩ | ⟨-, k, -, hs⟩ | ⟨-, hx⟩
  · exact ⟨rfl, rfl⟩
  · exact service_configuration hs
  · rw [exec_next hx, result_params, result_routes, commitFetch_params, commitFetch_routes]
    exact ⟨rfl, rfl⟩

/-! ### Registers -/

/-- Only mode acc has `A` as its target (R136). -/
theorem targetOf_ne_acc {i : Instr} (h : i.mode ≠ .acc) (s : State) : targetOf i s ≠ .acc := by
  unfold targetOf
  revert h
  unfold Instr.mode
  cases i.form <;> simp [Form.mode, resolve, direct, indexed]

theorem writeOperand_a {t : Target} (h : t ≠ .acc) (v : Byte) (s : State) :
    (writeOperand t v s).a = s.a := by
  cases t
  case acc => exact absurd rfl h
  all_goals rfl

theorem result_a {i : Instr} (s : State)
    (hm : i.mnemonic ∉ [.lda, .txa, .tya, .pla, .and, .ora, .eor, .adc, .sbc]) (hacc : i.mode ≠ .acc) :
    ((kindOf i.form i.mnemonic).result i s).a = s.a := by
  have hwrite := writeOperand_a (targetOf_ne_acc hacc s)
  cases hi : i.mnemonic <;>
    simp [hi, Kind.result, kindOf, hwrite, afterResolve, pullP_eq, returnSub_eq,
      returnFromInterrupt_eq] at hm ⊢

theorem result_x {i : Instr} (s : State) (hm : i.mnemonic ∉ [.ldx, .tax, .tsx, .inx, .dex]) :
    ((kindOf i.form i.mnemonic).result i s).x = s.x := by
  cases hi : i.mnemonic <;>
    simp [hi, Kind.result, kindOf, afterResolve, pullA_eq, pullP_eq, returnSub_eq,
      returnFromInterrupt_eq] at hm ⊢

theorem result_y {i : Instr} (s : State) (hm : i.mnemonic ∉ [.ldy, .tay, .iny, .dey]) :
    ((kindOf i.form i.mnemonic).result i s).y = s.y := by
  cases hi : i.mnemonic <;>
    simp [hi, Kind.result, kindOf, afterResolve, pullA_eq, pullP_eq, returnSub_eq,
      returnFromInterrupt_eq] at hm ⊢

theorem result_sp {i : Instr} (s : State)
    (hm : i.mnemonic ∉ [.txs, .pha, .php, .pla, .plp, .jsr, .rts, .rti, .brk]) :
    ((kindOf i.form i.mnemonic).result i s).sp = s.sp := by
  cases hi : i.mnemonic <;> simp [hi, Kind.result, kindOf, afterResolve] at hm ⊢

theorem result_pc {i : Instr} (s : State)
    (hm : i.mnemonic ∉ [.jmp, .jsr, .rts, .rti, .brk] ++ branches) :
    ((kindOf i.form i.mnemonic).result i s).pc = s.pc := by
  cases hi : i.mnemonic <;>
    simp [hi, Kind.result, kindOf, branches, afterResolve, pullA_eq, pullP_eq] at hm ⊢

/-- Settles O57: one lemma a register on the state the instruction answers (`exec_next`), the run state by
`exec_keeps_run`. -/
theorem registersWrittenOnlyByTheirWriters : Obligations.RegistersWrittenOnlyByTheirWriters := by
  unfold Obligations.RegistersWrittenOnlyByTheirWriters
  intro i s t h
  refine ⟨fun hm hshift => ?_, fun hm => ?_, fun hm => ?_, fun hm => ?_, fun hm => ?_,
    fun hm => exec_keeps_run hm h⟩ <;> rw [exec_next h]
  · exact result_a s hm fun hacc => hshift ⟨mnemonic_of_mode_acc hacc, hacc⟩
  · exact result_x s hm
  · exact result_y s hm
  · exact result_sp s hm
  · exact result_pc s hm

/-! ### Flags -/

theorem getFlag_setZN_of_not_mem {f : Flag} (h : f ∉ [.Z, .N]) (v p : Byte) :
    getFlag f (setZN v p) = getFlag f p := by
  obtain ⟨hZ, hN⟩ : f ≠ .Z ∧ f ≠ .N := by simpa using h
  rw [getFlag_setZN, if_neg hN, if_neg hZ]

/-- A compare, a shift or a rotate: the carry, then Z and N. -/
theorem getFlag_setCZN_of_not_mem {f : Flag} (h : f ∉ [.C, .Z, .N]) (c : Bool) (v p : Byte) :
    getFlag f (setZN v (putFlag .C c p)) = getFlag f p := by
  obtain ⟨hC, hZ, hN⟩ : f ≠ .C ∧ f ≠ .Z ∧ f ≠ .N := by simpa using h
  rw [getFlag_setZN_of_not_mem (by simp [hZ, hN]), getFlag_putFlag_ne hC]

theorem getFlag_adcFlags_of_not_mem {f : Flag} (h : f ∉ [.C, .Z, .V, .N]) (a m p : Byte) :
    getFlag f (adcFlags a m p) = getFlag f p := by
  obtain ⟨hC, hZ, hV, hN⟩ : f ≠ .C ∧ f ≠ .Z ∧ f ≠ .V ∧ f ≠ .N := by simpa using h
  rw [adcFlags, getFlag_putFlag_ne hN, getFlag_putFlag_ne hV, getFlag_putFlag_ne hZ, getFlag_putFlag_ne hC]

theorem getFlag_bitFlags_of_not_mem {f : Flag} (h : f ∉ [.Z, .V, .N]) (a m p : Byte) :
    getFlag f (bitFlags a m p) = getFlag f p := by
  obtain ⟨hZ, hV, hN⟩ : f ≠ .Z ∧ f ≠ .V ∧ f ≠ .N := by simpa using h
  rw [getFlag_bitFlags, if_neg hZ, if_neg hV, if_neg hN]

/-- What a shape does with the operand, with the status byte, or with the whole state, leaves a flag. -/
def Kind.KeepsFlag (f : Flag) : Kind → Prop
  | .read act => ∀ v s, getFlag f (act v s).p = getFlag f s.p
  | .modify act => ∀ m p, getFlag f (act m p).2 = getFlag f p
  | .implied act => ∀ s, getFlag f (act s).p = getFlag f s.p
  | .brk => f ≠ .I
  | .store _ | .branch .. | .undefined => True

theorem kindOf_keepsFlag (fm : Form) {m : Mnemonic} {f : Flag} (hm : m ∉ flagWriters f) :
    (kindOf fm m).KeepsFlag f := by
  have hnot {written : List Flag} (h : ∀ g ∈ written, m ∈ flagWriters g) : f ∉ written :=
    fun hf => hm (h f hf)
  have hne {g : Flag} (h : m ∈ flagWriters g) : f ≠ g := fun e => hm (e ▸ h)
  cases m
  case plp | rti => cases f <;> simp [flagWriters] at hm
  case lda | ldx | ldy | and | ora | eor | inc | dec =>
    exact fun _ _ => getFlag_setZN_of_not_mem (hnot (by decide)) _ _
  case tax | tay | txa | tya | tsx | pla | inx | iny | dex | dey =>
    exact fun _ => getFlag_setZN_of_not_mem (hnot (by decide)) _ _
  case cmp | cpx | cpy | asl | lsr | rol | ror =>
    exact fun _ _ => getFlag_setCZN_of_not_mem (hnot (by decide)) _ _ _
  case adc | sbc => exact fun _ _ => getFlag_adcFlags_of_not_mem (hnot (by decide)) _ _ _
  case bit => exact fun _ _ => getFlag_bitFlags_of_not_mem (hnot (by decide)) _ _ _
  case clc | sec | cli | sei | cld | sed | clv =>
    exact fun _ => getFlag_putFlag_ne (hne (by decide)) _ _
  case brk => exact hne (by decide)
  case jmp => exact fun s => congrArg (getFlag f) (jumpTo_p fm s)
  case jsr =>
    intro s
    rw [callSub_eq, setPc_p, push16_p]
  case txs | pha | php | rts | nop => exact fun _ => rfl
  case sta | stx | sty | bcc | bcs | beq | bmi | bne | bpl | bvc | bvs | unimplemented => trivial

theorem result_flag {i : Instr} (s : State) {f : Flag} (hm : i.mnemonic ∉ flagWriters f) :
    getFlag f ((kindOf i.form i.mnemonic).result i s).p = getFlag f s.p := by
  have hkeep := kindOf_keepsFlag i.form hm
  cases hk : kindOf i.form i.mnemonic with
  | read act => rw [hk] at hkeep; rw [Kind.result, addCycles_p, hkeep, addCycles_p, afterOperandOf_p]
  | store v => simp [Kind.result, afterResolve]
  | modify act => rw [hk] at hkeep; rw [Kind.result, addCycles_p, setP_p, hkeep]
  | implied act => rw [hk] at hkeep; rw [Kind.result, addCycles_p, hkeep]
  | branch fl want o => simp [Kind.result]
  | brk =>
    rw [hk] at hkeep
    rw [Kind.result, addCycles_p, enterHandler_p, pushFrame_p, getFlag_putFlag_ne hkeep]
  | undefined => rfl

/-- PLP and RTI force U to 1 (R34). -/
theorem result_U_of_pull {i : Instr} (s : State) (hm : i.mnemonic = .plp ∨ i.mnemonic = .rti) :
    getFlag .U ((kindOf i.form i.mnemonic).result i s).p = true := by
  rcases hm with hm | hm <;>
    simp [hm, Kind.result, kindOf, pullP_eq, returnFromInterrupt_eq, getFlag_pulledStatus]

/-- Settles O58: both halves on the state the instruction answers (`exec_next`), by `result_flag` and
`result_U_of_pull`. -/
theorem flagsWrittenOnlyByTheirWriters : Obligations.FlagsWrittenOnlyByTheirWriters := by
  unfold Obligations.FlagsWrittenOnlyByTheirWriters
  intro i s t h
  rw [exec_next h]
  exact ⟨fun f hm => result_flag s hm, result_U_of_pull s⟩

end Sys2Proof.Machine
end

section
/-! What reads and writes leave of the memory (spec/20_memory.md R60 to R62, R82; log 2), for one write, for
an operand read, and for every instruction. -/

namespace Sys2Proof.Machine

open Sys2Proof.Safety

/-! ### One write -/

/-- A written byte is at every address that leads to its cell. -/
theorem peek_memWrite_mirror {s : State} {a b n : Word} {w : Bool} (v : Byte)
    (ha : placeOf s a = .cell n true) (hb : placeOf s b = .cell n w) :
    peek (memWrite a v s) b = some v := by
  simp [peek_memWrite, ha, hb]

/-- A write to ROM changes no cell. -/
theorem peek_memWrite_rom {s : State} {a n : Word} (v : Byte) (ha : placeOf s a = .cell n false)
    (b : Word) : peek (memWrite a v s) b = peek s b := by
  simp [peek_memWrite, ha]

theorem sameMemoryBut_memWrite (a : Word) (v : Byte) (s : State) : SameMemoryBut [a] s (memWrite a v s) :=
  fun b hb => peek_memWrite_ne v s (hb a (by simp))

/-- Settles O53: cells by `peek_memWrite_mirror`, ROM by `peek_memWrite_rom`, devices by the equations of a
read and a write that reach them, the other cells by `peek_memWrite_ne`. -/
theorem writtenByteIsReadBack : Obligations.WrittenByteIsReadBack := by
  unfold Obligations.WrittenByteIsReadBack
  intro s a v
  refine ⟨fun n w b ha hb => ?_, fun n ha => peek_memWrite_rom v ha,
    fun ha => ⟨?_, memWrite_of_device v ha⟩, sameMemoryBut_memWrite a v s⟩
  · have hpeek := peek_memWrite_mirror v ha hb
    exact ⟨hpeek, readByte_of_peek hpeek⟩
  · rw [memRead, readByte_of_device ha, afterRead_of_device ha]

/-! ### An operand read -/

theorem isDevice_of_no_routes {s : State} (h : s.routes = []) (a : Word) : isDevice s a = false :=
  isDevice_of_cell (placeOf_of_no_routes h a)

/-- On a bus that routes nothing a read leaves the latch and the devices. -/
theorem afterRead_of_no_routes {s : State} (h : s.routes = []) (a : Word) :
    (afterRead a s).pending = s.pending ∧ (afterRead a s).devices = s.devices := by
  rw [afterRead_of_not_device (isDevice_of_no_routes h a)]
  exact ⟨rfl, rfl⟩

theorem resolve_of_no_routes {s : State} (h : s.routes = []) (f : Form) :
    (resolve f s).st.pending = s.pending ∧ (resolve f s).st.devices = s.devices := by
  have hpointer (a : Word) : (afterPointer a s).pending = s.pending ∧
      (afterPointer a s).devices = s.devices := by
    obtain ⟨hp, hd⟩ := afterRead_of_no_routes h a
    obtain ⟨hp2, hd2⟩ := afterRead_of_no_routes (s := afterRead a s) h (pointerHigh a)
    exact ⟨hp2.trans hp, hd2.trans hd⟩
  cases f
  case ind w => exact hpointer w
  case xInd o => exact hpointer (zext (o + s.x))
  case indY o => exact hpointer (zext o)
  all_goals exact ⟨rfl, rfl⟩

theorem afterOperand_of_no_routes {s : State} (h : s.routes = []) (t : Target) :
    (afterOperand t s).pending = s.pending ∧ (afterOperand t s).devices = s.devices := by
  cases t
  case addr ea => exact afterRead_of_no_routes h ea
  case operand ea m => exact afterRead_of_no_routes h ea
  all_goals exact ⟨rfl, rfl⟩

/-- Settles O9: one lemma a field (`afterOperandOf_pc` and its like), the memory through `peek_congr`, the
latch by `has_afterOperandOf`, and without routes by the pointer reads and the operand read in turn. -/
theorem operandReadsChangeOnlyTheBusRecord : Obligations.OperandReadsChangeOnlyTheBusRecord := by
  unfold Obligations.OperandReadsChangeOnlyTheBusRecord
  intro i s
  refine ⟨?_, fun b => peek_congr (afterOperandOf_mem i s) (afterOperandOf_routes i s) b,
    fun k => has_afterOperandOf i, fun h => ?_⟩
  · apply State.ext <;> simp
  · have hroutes : (afterResolve i s).routes = [] := (resolve_routes i.form s).trans h
    obtain ⟨hp, hd⟩ := resolve_of_no_routes h i.form
    obtain ⟨hp2, hd2⟩ := afterOperand_of_no_routes hroutes (targetOf i s)
    exact ⟨hp2.trans hp, hd2.trans hd⟩

/-! ### Instructions that store nothing -/

theorem writeOperand_acc_mem (v : Byte) (s : State) : (writeOperand .acc v s).mem = s.mem := rfl

theorem targetOf_of_mode_acc {i : Instr} (h : i.mode = .acc) (s : State) : targetOf i s = .acc :=
  congrArg Resolved.target (resolve_of_mode_acc h s)

theorem result_mem {i : Instr} (s : State) (hm : i.mnemonic ∉ storers ++ pushers)
    (hacc : i.mnemonic ∈ modifiers → i.mode = .acc) :
    ((kindOf i.form i.mnemonic).result i s).mem = s.mem := by
  have htarget : i.mnemonic ∈ modifiers → targetOf i s = .acc := fun h => targetOf_of_mode_acc (hacc h) s
  clear hacc
  cases hi : i.mnemonic <;>
    simp [hi, storers, pushers, modifiers, Kind.result, kindOf, pullA_eq, pullP_eq, returnSub_eq,
      returnFromInterrupt_eq] at hm htarget ⊢ <;>
    simp [htarget, writeOperand_acc_mem]

/-- Settles O54: the instruction keeps the cells (`result_mem`) and the routes (`result_routes`). -/
theorem nonStoringInstructionsKeepMemory : Obligations.NonStoringInstructionsKeepMemory := by
  unfold Obligations.NonStoringInstructionsKeepMemory
  intro i s t hm hacc h b
  rw [exec_next h]
  exact peek_congr (result_mem s hm hacc) (result_routes i s) b

/-! ### Instructions that store -/

theorem sameMemoryBut_congr {l : List Word} {s t u : State} (h : SameMemoryBut l s u)
    (hmem : t.mem = u.mem) (hroutes : t.routes = u.routes) : SameMemoryBut l s t :=
  fun b hb => (peek_congr hmem hroutes b).trans (h b hb)

/-- A write after reads that changed no cell. -/
theorem sameMemoryBut_write_after {s u : State} (hmem : u.mem = s.mem) (hroutes : u.routes = s.routes)
    (ea : Word) (v : Byte) : SameMemoryBut [ea] s (memWrite ea v u) := by
  intro b hb
  rw [peek_memWrite_ne v u (sharesCell_congr hroutes b ea ▸ hb ea (by simp))]
  exact peek_congr hmem hroutes b

theorem sameMemoryBut_store {i : Instr} {s : State} {ea : Word} (hea : targetOf i s = .addr ea)
    (v : State → Byte) : SameMemoryBut [ea] s ((Kind.store v).result i s) :=
  sameMemoryBut_congr
    (sameMemoryBut_write_after (resolve_mem i.form s) (resolve_routes i.form s) ea (v s))
    (by rw [Kind.result, hea]; rfl) (by rw [Kind.result, hea]; rfl)

theorem sameMemoryBut_modify {i : Instr} {s : State} {ea : Word} (hea : targetOf i s = .addr ea)
    (act : Byte → Byte → Byte × Byte) : SameMemoryBut [ea] s ((Kind.modify act).result i s) :=
  sameMemoryBut_congr
    (sameMemoryBut_write_after (afterOperandOf_mem i s) (afterOperandOf_routes i s) ea
      (act (operandOf i s) s.p).1)
    (by rw [Kind.result, hea]; rfl) (by rw [Kind.result, hea]; rfl)

/-- Settles O55: stores (`sameMemoryBut_store`) and read-modify-writes (`sameMemoryBut_modify`) write once,
at their target, after reads. -/
theorem storingInstructionsKeepOtherMemory : Obligations.StoringInstructionsKeepOtherMemory := by
  unfold Obligations.StoringInstructionsKeepOtherMemory
  intro i s t ea hm h hea
  rw [exec_next h]
  cases hi : i.mnemonic <;> simp [hi, storers, modifiers] at hm
  case sta | stx | sty => exact sameMemoryBut_store hea _
  all_goals exact sameMemoryBut_modify hea _

/-! ### Instructions that push -/

theorem sameMemoryBut_push (v : Byte) (s : State) : SameMemoryBut [stackAddr s.sp] s (push v s) :=
  fun b hb => peek_push_ne v s (hb _ (by simp))

theorem sameMemoryBut_push16 (w : Word) (s : State) :
    SameMemoryBut [stackAddr s.sp, stackAddr (s.sp - 1)] s (push16 w s) := by
  intro b hb
  have h0 : sharesCell s b (stackAddr s.sp) = false := hb _ (by simp)
  have h1 : sharesCell s b (stackAddr (s.sp - 1)) = false := hb _ (by simp)
  rw [push16_eq, peek_setSp, peek_memWrite_ne _ _ (by simpa using h1), peek_memWrite_ne _ _ h0]

/-- The three slots of the service path's frame, for a service and for BRK (R320). -/
theorem sameMemoryBut_service (k : Line) (brk : Bool) (s : State) :
    SameMemoryBut [stackAddr s.sp, stackAddr (s.sp - 1), stackAddr (s.sp - 2)] s
      (enterHandler k (pushFrame brk s)) := by
  intro b hb
  rw [peek_congr (enterHandler_mem _ _) (enterHandler_routes _ _), pushFrame_eq, peek_setSp,
    peek_framed_ne _ _ (hb _ (by simp)) (hb _ (by simp)) (hb _ (by simp))]

/-- Settles O56: PHA and PHP push once (`sameMemoryBut_push`), JSR a word (`sameMemoryBut_push16`), BRK the
service path's frame (`sameMemoryBut_service`). -/
theorem pushingInstructionsKeepOtherMemory : Obligations.PushingInstructionsKeepOtherMemory := by
  unfold Obligations.PushingInstructionsKeepOtherMemory
  intro i s t h
  rw [exec_next h]
  refine ⟨fun hm => ?_, fun hm => ?_, fun hm => ?_⟩
  · simp only [List.mem_cons, List.not_mem_nil, or_false] at hm
    rcases hm with hm | hm <;> rw [hm]
    · exact sameMemoryBut_congr (sameMemoryBut_push s.a s) rfl rfl
    · exact sameMemoryBut_congr (sameMemoryBut_push s.p s) rfl rfl
  · rw [hm]
    exact sameMemoryBut_congr (sameMemoryBut_push16 (s.pc - 1) s) rfl rfl
  · rw [hm]
    exact sameMemoryBut_congr (sameMemoryBut_service .irq true s) rfl rfl

end Sys2Proof.Machine
end

section
/-! The invariant (spec/10_state.md R34; log 1): canonical memory and `P.U = 1`, at launch, under every step
and under the host's operations between them. -/

namespace Sys2Proof.Machine

open Sys2Proof.Safety

/-! ### The canonical form of the memory -/

/-- What a shape does with the operand, or with the whole state, keeps the canonical form. The other shapes
carry no act on the state. -/
def Kind.ActKeepsWf : Kind → Prop
  | .read act => ∀ v s, (act v s).mem = s.mem
  | .implied act => ∀ s : State, s.mem.wf → (act s).mem.wf
  | .store _ | .modify _ | .branch .. | .brk | .undefined => True

theorem kindOf_actKeepsWf (f : Form) (m : Mnemonic) : (kindOf f m).ActKeepsWf := by
  cases m
  case pha => exact fun s => push_keeps_wf s.a
  case php => exact fun s => push_keeps_wf s.p
  case jsr =>
    intro s h
    rw [callSub_eq, setPc_mem]
    exact push16_keeps_wf (s.pc - 1) h
  case jmp => exact fun s h => (jumpTo_mem f s).symm ▸ h
  all_goals
    simp [kindOf, Kind.ActKeepsWf, pullA_eq, pullP_eq, returnSub_eq, returnFromInterrupt_eq]

theorem result_keeps_wf (i : Instr) {s : State} (h : s.mem.wf) :
    ((kindOf i.form i.mnemonic).result i s).mem.wf := by
  have hkeep := kindOf_actKeepsWf i.form i.mnemonic
  cases hk : kindOf i.form i.mnemonic with
  | read act =>
    rw [hk] at hkeep
    rw [Kind.result, addCycles_mem, hkeep, addCycles_mem, afterOperandOf_mem]
    exact h
  | store v => exact writeOperand_keeps_wf _ _ ((resolve_mem i.form s).symm ▸ h)
  | modify act => exact writeOperand_keeps_wf _ _ ((afterOperandOf_mem i s).symm ▸ h)
  | implied act => rw [hk] at hkeep; exact hkeep s h
  | branch fl want o => exact (branch_mem _ o s).symm ▸ h
  | brk => exact (enterHandler_mem _ _).symm ▸ pushFrame_keeps_wf true h
  | undefined => exact h

theorem service_keeps_wf {k : Line} {brk : Bool} {s t : State} (h : serviceInterrupt k brk s = .next t)
    (hwf : s.mem.wf) : t.mem.wf := by
  rcases service_cases h with ⟨-, rfl⟩ | ⟨-, -, rfl⟩ <;> rw [enterHandler_mem]
  · exact hwf
  · exact pushFrame_keeps_wf brk hwf

/-! ### Bit U of the status byte -/

/-- Of all instructions PLP and RTI alone write U, and they set it (R34). -/
theorem result_keeps_U (i : Instr) {s : State} (h : getFlag .U s.p = true) :
    getFlag .U ((kindOf i.form i.mnemonic).result i s).p = true := by
  by_cases hm : i.mnemonic ∈ flagWriters .U
  · exact result_U_of_pull s (by simpa [flagWriters] using hm)
  · rw [result_flag s hm, h]

theorem service_keeps_U {k : Line} {brk : Bool} {s t : State} (h : serviceInterrupt k brk s = .next t)
    (hU : getFlag .U s.p = true) : getFlag .U t.p = true := by
  obtain ⟨-, -, -, hp⟩ := service_registers h
  rw [hp, getFlag_putFlag_ne (by decide), hU]

/-! ### Steps and host operations -/

theorem step_keeps_invariant {s t : State} (hi : Invariant s) (h : step s = .next t) : Invariant t := by
  obtain ⟨hwf, hU⟩ := hi
  rcases step_cases h with ⟨-, rfl⟩ | ⟨-, k, -, hs⟩ | ⟨-, hx⟩
  · exact ⟨hwf, hU⟩
  · exact ⟨service_keeps_wf hs hwf, service_keeps_U hs hU⟩
  · rw [exec_next hx]
    exact ⟨result_keeps_wf _ ((commitFetch_mem _ s).symm ▸ hwf),
      result_keeps_U _ ((commitFetch_p _ s).symm ▸ hU)⟩

/-- Settles O51: by the cases of a step, each keeping both halves (`step_keeps_invariant`). -/
theorem stepKeepsInvariant : Obligations.StepKeepsInvariant := by
  unfold Obligations.StepKeepsInvariant
  exact fun s t => step_keeps_invariant

/-- Settles O50: nothing is described, and the power-up status byte has U set. -/
theorem launchStateMeetsInvariant : Obligations.LaunchStateMeetsInvariant := by
  unfold Obligations.LaunchStateMeetsInvariant
  exact ⟨⟨List.Pairwise.nil, fun c hc => by cases hc⟩, by decide⟩

theorem powerCycle_invariant {s : State} (h : s.mem.wf) : Invariant (powerCycle s) :=
  ⟨h, show getFlag .U 0x34 = true by decide⟩

theorem hostWrite_keeps_wf {s : State} (a : Word) (v : Byte) (h : s.mem.wf) :
    (hostWrite a v s).mem.wf := by
  unfold hostWrite
  cases placeOf s a with
  | cell n w => exact Memory.put_wf h n.isLt
  | device => exact h

theorem hostOp_keeps_invariant (o : HostOp) {s : State} (hi : Invariant s) : Invariant (o.apply s) := by
  obtain ⟨hwf, hU⟩ := hi
  cases o with
  | powerCycle => exact powerCycle_invariant hwf
  | reset => exact ⟨hwf, (getFlag_putFlag_ne (by decide) true s.p).trans hU⟩
  | request k => exact ⟨hwf, hU⟩
  | withdraw k => exact ⟨hwf, hU⟩
  | write a v => exact ⟨hostWrite_keeps_wf a v hwf, hU⟩
  | devices d => exact ⟨hwf, hU⟩

/-- Settles O52: by induction over the ways to reach a state, a step by `step_keeps_invariant`, a host
operation by `hostOp_keeps_invariant`. -/
theorem reachableStatesMeetInvariant : Obligations.ReachableStatesMeetInvariant := by
  unfold Obligations.ReachableStatesMeetInvariant
  intro s h
  induction h with
  | powerUp hwf => exact powerCycle_invariant hwf
  | step _ hstep ih => exact step_keeps_invariant ih hstep
  | host o _ ih => exact hostOp_keeps_invariant o ih

end Sys2Proof.Machine
end

section
/-! The stack as memory, taking an interrupt and returning from one (spec/20_memory.md R72 to R78,
spec/60_exceptions.md R320 to R327, spec/46_flags_misc.md R298). -/

namespace Sys2Proof.Machine

open Sys2Proof.Safety

/-! ### A pushed word -/

/-- Settles O16: both bytes are in their slots (`peek_stack_same`, `peek_stack_ne`), where `Pull16` reads
them. -/
theorem pullOfPushedWordIsTheWord : Obligations.PullOfPushedWordIsTheWord := by
  unfold Obligations.PullOfPushedWordIsTheWord
  intro s w h
  have hsp1 : s.sp - 2 + 1 = s.sp - 1 := by bv_omega
  have hsp2 : s.sp - 2 + 2 = s.sp := by bv_omega
  have hlo : peek (push16 w s) (stackAddr (s.sp - 1)) = some (lo8 w) := by
    rw [push16_eq, peek_setSp]
    exact peek_stack_same ((stackIsMemory_congr (by simp)).2 h) _ _
  have hhi : peek (push16 w s) (stackAddr s.sp) = some (hi8 w) := by
    rw [push16_eq, peek_setSp, peek_stack_ne ((stackIsMemory_congr (by simp)).2 h) _ (by bv_omega)]
    exact peek_stack_same h _ _
  have hhi' : peek (afterRead (stackAddr (s.sp - 1)) (push16 w s)) (stackAddr s.sp) = some (hi8 w) := by
    rw [peek_afterRead, hhi]
  rw [pull16_eq, push16_sp, byte_sub_two, hsp1, hsp2, readByte_of_peek hlo, readByte_of_peek hhi',
    concat_hi8_lo8]
  exact ⟨rfl, setSp_sp _ _⟩

/-! ### The service path -/

/-- The frame and the vector's reads of a service other than RESET's (R320). -/
theorem enterHandler_pushFrame {k : Line} (hk : k ≠ .reset) (brk : Bool) (s : State) :
    enterHandler k (pushFrame brk s) = vectored k (vectorOf k) (s.sp - 3)
      (framed (pushedStatus s.params.hwPushClearsB brk s.p) s) := by
  have hno : (k == .reset && (pushFrame brk s).params.resetOverrideC000) = false := by
    rw [beq_eq_false_iff_ne.2 hk, Bool.false_and]
  rw [enterHandler_eq k _ hno, pushFrame_sp, pushFrame_eq]
  rfl

/-- Settles O35: NMI and IRQ by `service_other` and `service_unset` with the path of
`enterHandler_pushFrame`, RESET by `service_reset` with its two variants. -/
theorem servicePath : Obligations.ServicePath := by
  unfold Obligations.ServicePath
  intro s brk
  refine ⟨fun h => ⟨?_, ?_⟩,
    fun h => ⟨service_unset brk (by decide) h, service_unset brk (by decide) h⟩,
    fun h => ?_, fun h => ?_⟩
  · rw [service_other brk (by decide) h, enterHandler_pushFrame (by decide)]; rfl
  · rw [service_other brk (by decide) h, enterHandler_pushFrame (by decide)]; rfl
  · rw [service_reset, enterHandler_eq .reset s (by rw [h]; rfl)]; rfl
  · rw [service_reset, enterHandler_override s h]

/-- Settles O30: the form by the table of mnemonics (`hasForms`), BRK with a `PC` by `execBrk_of_pcSet` and
the service path (`enterHandler_pushFrame`), without one by `execBrk_of_unset`. -/
theorem brkTakesTheIrqPath : Obligations.BrkTakesTheIrqPath := by
  unfold Obligations.BrkTakesTheIrqPath
  refine ⟨hasForms .brk (by decide), fun s => ⟨fun h => ?_, fun h => execBrk_of_unset h⟩⟩
  have hx : exec .brk s = execBrk s := exec_eq .brk s
  rw [hx, execBrk_of_pcSet h, enterHandler_pushFrame (by decide)]
  rfl

/-- Settles O34: the line that a step takes (`takenLine_eq_some`, `Latch.get_eq_nmi`,
`Latch.get_eq_reset`); a service clears its own line (`not_has_enterHandler`) and no other
(`has_enterHandler`). -/
theorem nmiAndResetAreNeverBlocked : Obligations.NmiAndResetAreNeverBlocked := by
  unfold Obligations.NmiAndResetAreNeverBlocked
  intro s hr
  refine ⟨fun hn => ?_, fun hn hreset => ?_, fun k j brk t h => ?_⟩
  · exact step_service hr (takenLine_eq_some.2 ⟨s.pending.get_eq_nmi.2 hn, by simp⟩)
  · exact step_service hr (takenLine_eq_some.2 ⟨s.pending.get_eq_reset.2 ⟨hn, hreset⟩, by simp⟩)
  · rcases service_cases h with ⟨rfl, rfl⟩ | ⟨-, -, rfl⟩
    · exact ⟨not_has_enterHandler _ _, fun hne hj => has_enterHandler hne hj⟩
    · exact ⟨not_has_enterHandler _ _, fun hne hj => has_enterHandler hne (has_pushFrame brk hj)⟩

/-! ### The frame in the stack's slots -/

/-- The three pushed bytes, each in its slot (R320, R326). -/
theorem peek_framed {s : State} (h : StackIsMemory s) (status : Byte) :
    peek (framed status s) (stackAddr (s.sp - 2)) = some status ∧
    peek (framed status s) (stackAddr (s.sp - 1)) = some (lo8 s.pc) ∧
    peek (framed status s) (stackAddr s.sp) = some (hi8 s.pc) := by
  have h1 : StackIsMemory (memWrite (stackAddr s.sp) (hi8 s.pc) s) := (stackIsMemory_congr (by simp)).2 h
  have h2 : StackIsMemory (memWrite (stackAddr (s.sp - 1)) (lo8 s.pc)
      (memWrite (stackAddr s.sp) (hi8 s.pc) s)) := (stackIsMemory_congr (by simp)).2 h1
  refine ⟨peek_stack_same h2 _ _, ?_, ?_⟩
  · rw [framed, peek_stack_ne h2 _ (by bv_omega), peek_stack_same h1]
  · rw [framed, peek_stack_ne h2 _ (by bv_omega), peek_stack_ne h1 _ (by bv_omega), peek_stack_same h]

/-- After a service other than RESET's `S` is three less, and the frame stands above it. -/
theorem service_frame {s t : State} {k : Line} {brk : Bool} (hk : k ≠ .reset) (hm : StackIsMemory s)
    (h : serviceInterrupt k brk s = .next t) :
    t = enterHandler k (pushFrame brk s) ∧ t.sp = s.sp - 3 ∧
    peek t (stackAddr (t.sp + 1)) = some (pushedStatus s.params.hwPushClearsB brk s.p) ∧
    peek t (stackAddr (t.sp + 2)) = some (lo8 s.pc) ∧
    peek t (stackAddr (t.sp + 3)) = some (hi8 s.pc) := by
  obtain ⟨rfl, -⟩ | ⟨-, -, rfl⟩ := service_cases h
  · exact absurd rfl hk
  · have hsp : (enterHandler k (pushFrame brk s)).sp = s.sp - 3 := by simp
    have h1 : s.sp - 3 + 1 = s.sp - 2 := by bv_omega
    have h2 : s.sp - 3 + 2 = s.sp - 1 := by bv_omega
    have h3 : s.sp - 3 + 3 = s.sp := by bv_omega
    have hpeek (b : Word) : peek (enterHandler k (pushFrame brk s)) b =
        peek (framed (pushedStatus s.params.hwPushClearsB brk s.p) s) b := by
      rw [peek_congr (enterHandler_mem _ _) (enterHandler_routes _ _), pushFrame_eq, peek_setSp]
    rw [hsp, h1, h2, h3, hpeek, hpeek, hpeek]
    exact ⟨rfl, rfl, peek_framed hm _⟩

/-- Settles O36: the frame by `service_frame`, every other byte by `sameMemoryBut_service`. -/
theorem serviceLeavesFrameOnTheStack : Obligations.ServiceLeavesFrameOnTheStack := by
  unfold Obligations.ServiceLeavesFrameOnTheStack
  intro s t k brk hk hm h
  obtain ⟨rfl, hsp, hstatus, hlo, hhi⟩ := service_frame hk hm h
  exact ⟨hsp, hstatus, hlo, hhi, sameMemoryBut_service k brk s⟩

/-- Settles O37: RTI pulls the bytes of the frame (`service_frame`), so `PC` is the pushed word, and each
flag is that of the pushed status with U set (`getFlag_pulledStatus`, `getFlag_pushedStatus`). -/
theorem rtiUndoesAService : Obligations.RtiUndoesAService := by
  unfold Obligations.RtiUndoesAService
  intro s t u k brk hk hm h hsp hpeek
  obtain ⟨-, hs, hstatus, hlo, hhi⟩ := service_frame hk hm h
  have h1 := readByte_of_peek ((hpeek 1 (by simp)).trans hstatus)
  have h2 := readByte_of_peek (s := afterRead (stackAddr (u.sp + 1)) u)
    ((hpeek 2 (by simp)).trans hlo)
  have h3 := readByte_of_peek
    (s := afterRead (stackAddr (u.sp + 2)) (afterRead (stackAddr (u.sp + 1)) u))
    ((hpeek 3 (by simp)).trans hhi)
  have hact := returnFromInterrupt_eq u
  rw [h1, h2, h3, concat_hi8_lo8] at hact
  refine ⟨_, exec_of_implied .rti u rfl, ?_, ?_, fun f => ?_⟩
  · rw [hact]; rfl
  · rw [hact]
    show u.sp + 3 = s.sp
    rw [hsp, hs]
    bv_omega
  · rw [hact, addCycles_p, setP_p, getFlag_pulledStatus, getFlag_pushedStatus]
    by_cases hU : f = .U <;> simp [hU]

end Sys2Proof.Machine
end

section
/-! Arithmetic laws (spec/43_logical_arith_compare.md R210): ADC, SBC and the compares read as integers. -/

namespace Sys2Proof.Machine

open Sys2Proof.Safety

theorem adcOut_toNat (a m p : Byte) :
    (adcOut a m p).toNat = (a.toNat + m.toNat + (getFlag .C p).toNat) % 256 := by
  rw [adcOut_eq_ofNat, BitVec.toNat_ofNat]

theorem adcFlags_C (a m p : Byte) :
    getFlag .C (adcFlags a m p) = true ↔ a.toNat + m.toNat + (getFlag .C p).toNat > 255 := by
  rw [(addSets_adc a m p).2]
  exact decide_eq_true_iff

theorem and_signBit_ne_zero (v : Byte) : (v &&& 0x80 != 0) = v.msb := by
  revert v; decide

/-- A byte read as a signed integer. -/
theorem byte_toInt (v : Byte) : v.toInt = if 128 ≤ v.toNat then (v.toNat : Int) - 256 else v.toNat := by
  rw [BitVec.toInt_eq_msb_cond, BitVec.msb_eq_decide]
  simp

/-- V is set where the operands have one sign and the sum byte the other, that is, where the signed sum
does not fit. -/
theorem adcFlags_V (a m p : Byte) :
    getFlag .V (adcFlags a m p) = true ↔
      a.toInt + m.toInt + (getFlag .C p).toNat < -128 ∨
        a.toInt + m.toInt + (getFlag .C p).toNat > 127 := by
  have hv : getFlag .V (adcFlags a m p) = (!(a.msb ^^ m.msb) && (a.msb ^^ (adcOut a m p).msb)) := by
    rw [(addSets_adc a m p).2]
    exact (and_signBit_ne_zero _).trans (by simp)
  have ha := a.isLt
  have hm := m.isLt
  have hc := Bool.toNat_le (getFlag .C p)
  rw [hv, byte_toInt, byte_toInt]
  simp only [BitVec.msb_eq_decide, adcOut_toNat]
  by_cases h1 : 128 ≤ a.toNat <;> by_cases h2 : 128 ≤ m.toNat <;> simp [h1, h2] <;> omega

theorem byte_not_toNat (m : Byte) : (~~~m).toNat = 255 - m.toNat := BitVec.toNat_not

theorem byte_not_toInt (m : Byte) : (~~~m).toInt = -m.toInt - 1 := by
  have hm := m.isLt
  rw [byte_toInt, byte_toInt, byte_not_toNat]
  split_ifs <;> omega

/-- Settles O20: ADC by `adcOut_toNat`, `adcFlags_C` and `adcFlags_V`; SBC by the same on the complement
(`byte_not_toNat`, `byte_not_toInt`); a compare's carry is its definition. -/
theorem arithmeticReadAsIntegers : Obligations.ArithmeticReadAsIntegers := by
  unfold Obligations.ArithmeticReadAsIntegers
  intro a m p c add sadd sub ssub
  have hm := m.isLt
  have hsbc : sbcOut a m p = adcOut a (~~~m) p ∧ sbcFlags a m p = adcFlags a (~~~m) p := ⟨rfl, rfl⟩
  rw [hsbc.1, hsbc.2, adcOut_toNat, adcOut_toNat, adcFlags_C, adcFlags_C, adcFlags_V, adcFlags_V,
    byte_not_toNat, byte_not_toInt]
  refine ⟨by omega, by omega, Iff.rfl, by omega, by omega, by omega, ?_⟩
  simp [cmpFlags, getFlag_setZN, BitVec.le_def]

end Sys2Proof.Machine
end

section
/-! Branches and the gate of P.I (spec/45_control.md R270 to R278, spec/70_reset_and_hazards.md R360). -/

namespace Sys2Proof.Machine

open Sys2Proof.Safety

/-- A branch mnemonic with one opcode, by the two ends of a branch (R270). -/
theorem branchesWhen {mk : Byte → Instr} {op : Byte} {f : Flag} {want : Bool}
    (hk : ∀ o, kindOf (mk o).form (mk o).mnemonic = .branch f want o) (hop : ∀ o, (mk o).opcode = op) :
    BranchesWhen mk op f want := by
  intro o s
  rw [exec_of_branch (mk o) s (hk o), baseOf, hop]
  refine ⟨fun h => ?_, fun h => ?_⟩
  · rw [beq_iff_eq.2 h, branch_taken]
    by_cases hp : page s.pc = page (s.pc + sext o) <;>
      simp [addCycles, branchCycles, hp] <;> omega
  · rw [beq_eq_false_iff_ne.2 h, branch_not_taken]
    rfl

/-- Settles O28: each branch by `branchesWhen` on its flag, the forms by the table of mnemonics
(`hasForms`). -/
theorem branchesTestTheirFlag : Obligations.BranchesTestTheirFlag := by
  unfold Obligations.BranchesTestTheirFlag
  refine ⟨?_, ?_, ?_, ?_, ?_, ?_, ?_, ?_, hasForms .bcc (by decide), hasForms .bcs (by decide),
    hasForms .beq (by decide), hasForms .bmi (by decide), hasForms .bne (by decide),
    hasForms .bpl (by decide), hasForms .bvc (by decide), hasForms .bvs (by decide)⟩
  all_goals exact branchesWhen (fun _ => rfl) (fun _ => rfl)

/-- With IRQ the line `Get()` names, P.I alone decides (R317). -/
theorem takenLine_of_irq {t : State} (h : t.pending.get = some .irq) :
    takenLine t = if getFlag .I t.p then none else some .irq := by
  simp [takenLine, h]

/-- Settles O38: CLI, SEI, PLP and RTI write I, and the next step's gate reads it
(`takenLine_of_irq`). -/
theorem flagIActsAtTheNextStep : Obligations.FlagIActsAtTheNextStep := by
  unfold Obligations.FlagIActsAtTheNextStep
  intro s t hr hget
  have hgate := takenLine_of_irq hget
  refine ⟨fun h => ?_, fun h => ?_, fun h => ?_⟩
  · have hI : getFlag .I t.p = false := by
      rw [exec_next h]; exact getFlag_putFlag_same .I false s.p
    rw [hI] at hgate
    exact step_service hr hgate
  · have hI : getFlag .I t.p = true := by
      rw [exec_next h]; exact getFlag_putFlag_same .I true s.p
    rw [hgate, hI, if_pos rfl]
  · have hI : getFlag .I t.p = (readByte (stackAddr (s.sp + 1)) s).getLsbD 2 := by
      rcases h with h | h <;> rw [exec_next h]
      · exact getFlag_pulledStatus .I (readByte (stackAddr (s.sp + 1)) s)
      · exact (congrArg (fun u : State => getFlag .I u.p) (returnFromInterrupt_eq s)).trans
          (getFlag_pulledStatus .I (readByte (stackAddr (s.sp + 1)) s))
    rw [hgate, hI]

end Sys2Proof.Machine
end

section
/-! The step and the host's operations (spec/40_step_and_addressing.md R120 to R122, spec/60_exceptions.md
R330 to R334, spec/70_reset_and_hazards.md R350 to R354). -/

namespace Sys2Proof.Machine

open Sys2Proof.Safety

/-! ### Where a step stops -/

/-- A running step that would fetch or push an unset `PC` (R334). -/
def StopsUnset (s : State) : Prop := s.run = .running ∧ s.pcSet = false ∧ takenLine s ≠ some .reset

theorem step_of_stopsUnset {s : State} (h : StopsUnset s) : step s = .fault .pcUnset := by
  obtain ⟨hr, hp, hk⟩ := h
  cases hline : takenLine s with
  | none => exact step_unset hr hline hp
  | some k =>
    rw [step_service hr hline]
    exact service_unset false (fun e => hk (hline.trans (congrArg some e))) hp

theorem step_answers {s : State} (h : ¬ StopsUnset s) : ∃ t, step s = .next t := by
  cases hr : s.run with
  | halted => exact ⟨s, step_halted hr⟩
  | running =>
    cases hline : takenLine s with
    | some k =>
      rw [step_service hr hline]
      refine service_answers false ?_
      by_contra hno
      obtain ⟨hk, hp⟩ := not_or.1 hno
      exact h ⟨hr, Bool.eq_false_of_not_eq_true hp,
        fun e => hk (Option.some.inj (hline.symm.trans e))⟩
    | none =>
      have hp : s.pcSet = true := by
        by_contra hp
        exact h ⟨hr, Bool.eq_false_of_not_eq_true hp, by simp [hline]⟩
      rw [step_exec ⟨hr, hline, hp⟩]
      exact ⟨_, exec_eq_result _ fun _ => (commitFetch_pcSet _ s).trans hp⟩

/-- Settles O40: a step stops where `step_of_stopsUnset` says, and answers a next state everywhere else
(`step_answers`). -/
theorem stepStopsOnlyWithPcUnset : Obligations.StepStopsOnlyWithPcUnset := by
  unfold Obligations.StepStopsOnlyWithPcUnset
  intro s
  by_cases h : StopsUnset s
  · rw [step_of_stopsUnset h]
    refine ⟨fun f => ⟨fun e => ?_, fun ⟨hf, _⟩ => by rw [hf]⟩, fun r e => by cases e⟩
    cases e
    exact ⟨rfl, h⟩
  · obtain ⟨t, ht⟩ := step_answers h
    rw [ht]
    exact ⟨fun f => ⟨fun e => (nomatch e), fun ⟨_, hs⟩ => absurd hs h⟩, fun r e => (nomatch e)⟩

/-! ### Halting -/

/-- Settles O31: the halting row's shape (`exec_of_unimplemented`). -/
theorem undefinedByteHalts : Obligations.UndefinedByteHalts := by
  unfold Obligations.UndefinedByteHalts
  exact fun op s => exec_of_unimplemented s rfl

/-- Settles O42: by `step_halted`, so that no cycle is charged. -/
theorem haltedStepChangesNothing : Obligations.HaltedStepChangesNothing := by
  unfold Obligations.HaltedStepChangesNothing
  intro s hr
  have hstep := step_halted hr
  exact ⟨hstep, by rw [stepCycles_of_next hstep, Nat.sub_self]⟩

/-! ### The decoded instruction -/

/-- The lookahead's three bytes make the instruction that described bytes decode to: by the opcode's shape
and the operand bytes the decoder takes for it. -/
theorem decodeWindow_of_decode {op b1 b2 : Byte} {tail rest : List Byte} {i : Instr}
    (h : decode (op :: tail) = .ok i rest) (h1 : ∀ o, tail[0]? = some o → b1 = o)
    (h2 : ∀ o, tail[1]? = some o → b2 = o) : decodeWindow op b1 b2 = i := by
  rw [decodeWindow_eq]
  cases hshape : shapeOf op <;> simp only [decode, hshape] at h
  case single j => cases h; rfl
  case withByte f =>
    rcases tail with _ | ⟨o, tail⟩ <;> cases h
    rw [h1 o rfl, Shape.instr]
  case withWord f =>
    rcases tail with _ | ⟨lo, _ | ⟨hi, tail⟩⟩ <;> cases h
    rw [h1 lo rfl, h2 hi rfl, Shape.instr]

/-- The described bytes at `PC` (R74). -/
def BytesAtPc (s : State) (bs : List Byte) : Prop :=
  ∀ n b, bs[n]? = some b → peek s (s.pc + BitVec.ofNat 16 n) = some b

theorem nextInstr_of_decode {s : State} {bs rest : List Byte} {i : Instr} (hbs : BytesAtPc s bs)
    (h : decode bs = .ok i rest) : nextInstr s = i := by
  cases bs with
  | nil => cases h
  | cons op tail =>
    have hpc : peek s s.pc = some op := by simpa using hbs 0 op rfl
    simp only [nextInstr, fetchByte_fst, fetchByte_pc, readByte_of_peek hpc]
    refine decodeWindow_of_decode h (fun o ho => ?_) (fun o ho => ?_)
    · exact readByte_of_peek (hbs 1 o ho)
    · refine readByte_of_peek (Eq.trans ?_ (hbs 2 o ho))
      rw [← show s.pc + 1 + 1 = s.pc + BitVec.ofNat 16 2 from word_add_one_one s.pc]
      rfl

/-- Settles O39: the lookahead decodes to the instruction (`nextInstr_of_decode`), whose bytes no device
answers, so that the fetch is as `commitFetch_of_memory` and `commitFetch_calls` say. -/
theorem stepRunsTheDecodedInstruction : Obligations.StepRunsTheDecodedInstruction := by
  unfold Obligations.StepRunsTheDecodedInstruction
  intro s bs rest i hx hpeek h
  have hbs : BytesAtPc s bs := fun n b hb => by
    obtain ⟨hn, rfl⟩ := List.getElem?_eq_some_iff.1 hb
    exact hpeek n hn
  obtain ⟨taken, ⟨-, -, hlen⟩, htaken⟩ := encodesAs_of_decode h
  refine ⟨?_, commitFetch_of_memory i.mode s fun n hn => ?_, commitFetch_calls i.mode s⟩
  · rw [step_exec hx, nextInstr_of_decode hbs h]
  · have hn' : n < bs.length := by rw [← htaken, List.length_append]; omega
    exact isDevice_of_peek (hpeek n hn')

/-! ### The boot step and the host's operations -/

/-- Settles O48: the step is RESET's service (`service_reset`, `enterHandler_eq`), whose two reads reach
described cells. -/
theorem bootLoadsTheResetVector : Obligations.BootLoadsTheResetVector := by
  unfold Obligations.BootLoadsTheResetVector
  intro m r d c lo hi n l s hlo hhi hc
  have hfirst : afterRead 0xFFFC s = { s with busLog := .read 0xFFFC :: l, busCalls := n + 1 } :=
    afterRead_of_not_device (isDevice_of_peek hlo)
  have hsecond : afterRead 0xFFFD (afterRead 0xFFFC s) =
      { s with busLog := .read 0xFFFD :: .read 0xFFFC :: l, busCalls := n + 2 } := by
    rw [afterRead_of_not_device (isDevice_of_peek (s := afterRead 0xFFFC s) hhi), hfirst]
  have hstep : step s = .next (vectored .reset 0xFFFC s.sp s) := by
    rw [step_service (k := .reset) rfl rfl, service_reset, enterHandler_eq .reset s (by simp [s, hc])]
    rfl
  have hvectored : vectored .reset 0xFFFC s.sp s = { s with
      pc := concat hi lo, pcSet := true, cycles := 7
      pending := { nmi := false, reset := false, irq := false }
      busLog := .read 0xFFFD :: .read 0xFFFC :: l, busCalls := n + 2 } := by
    have hnext : (0xFFFC : Word) + 1 = 0xFFFD := by decide
    have hp : putFlag .I true s.p = s.p := show putFlag .I true 0x34 = 0x34 by decide
    rw [vectored, hnext, hp, readByte_of_peek hlo, readByte_of_peek (s := afterRead 0xFFFC s) hhi, hsecond]
    rfl
  rw [stepCycles_of_next hstep, hstep, hvectored]
  exact ⟨rfl, rfl⟩

/-- Settles O49: each operation is the update it names; of `P`, `reset()` writes I alone
(`flagSet_putFlag`). -/
theorem hostOperations : Obligations.HostOperations := by
  unfold Obligations.HostOperations
  exact ⟨rfl, fun s k => ⟨rfl, ⟨flagSet_putFlag .I true s.p, rfl⟩, rfl, rfl⟩⟩

end Sys2Proof.Machine
end

section
/-! The cycle counts (spec/40_step_and_addressing.md R139, R143, R144; spec/70_reset_and_hazards.md R357,
R363): what each instruction charges, and which steps return 0. -/

namespace Sys2Proof.Machine

open Sys2Proof.Safety

/-- What an instruction charges (R143): `pc` is where it ends. -/
def chargedCycles (i : Instr) (s : State) (pc : Word) : Nat :=
  if i.mnemonic = .unimplemented then 0
  else baseCycles s.params i.opcode +
    (if i.mnemonic ∈ readers ++ modifiers ∧ pageCrossFlag s.params i.opcode = true ∧
        (resolve i.form s).crossed = true then 1 else 0) +
    (if branchTaken i.mnemonic s.p = true then (if page s.pc = page pc then 1 else 3) else 0) +
    (if i.mnemonic = .brk then 7 else 0)

theorem opcode_of_brk {i : Instr} (h : i.mnemonic = .brk) : i.opcode = 0x00 := by
  have hform := mem_formsOf i (by rw [h]; decide)
  rw [h] at hform
  exact congrArg Prod.fst (List.mem_singleton.1 hform)

/-- Mnemonic by mnemonic, as `chargedCycles` tells them apart. -/
theorem result_cycles (i : Instr) (s : State) :
    ((kindOf i.form i.mnemonic).result i s).cycles =
      s.cycles + chargedCycles i s ((kindOf i.form i.mnemonic).result i s).pc := by
  cases hm : i.mnemonic
  case brk =>
    simp only [Kind.result, kindOf, addCycles_cycles, enterHandler_cycles, pushFrame_cycles]
    simp [chargedCycles, hm, opcode_of_brk hm, readers, modifiers, branchTaken]
    omega
  all_goals
    simp [chargedCycles, hm, Kind.result, kindOf, readers, modifiers, branchTaken, baseOf, crossCycles,
      pullA_eq, pullP_eq, returnSub_eq, returnFromInterrupt_eq, branch_cycles] <;>
    rw [Nat.add_right_comm, Nat.add_assoc]

/-- Settles O45: by the count of the state the instruction answers (`exec_next`, `result_cycles`). -/
theorem cyclesChargedByAnInstruction : Obligations.CyclesChargedByAnInstruction := by
  unfold Obligations.CyclesChargedByAnInstruction
  intro i s t h
  rw [exec_next h]
  exact result_cycles i s

/-! ### Steps that return 0 -/

/-- Table 3 gives every documented opcode but BRK's a count. -/
theorem baseCycles_formsOf (m : Mnemonic) : (formsOf m).all (fun e =>
    decide (m = .brk) || decide (0 < baseCycles Params.standard e.1)) = true := by
  cases m <;> rfl

/-- Under the default tables the undefined bytes alone charge nothing: BRK charges its 7 cycles, every other
opcode its base count. -/
theorem chargedCycles_eq_zero_iff {i : Instr} {s : State} (hp : s.params = Params.standard) (pc : Word) :
    chargedCycles i s pc = 0 ↔ i.mnemonic = .unimplemented := by
  unfold chargedCycles
  by_cases hm : i.mnemonic = .unimplemented
  · simp [hm]
  · have hbase := List.all_eq_true.1 (baseCycles_formsOf i.mnemonic) _ (mem_formsOf i hm)
    rw [Bool.or_eq_true, decide_eq_true_iff, decide_eq_true_iff, ← hp] at hbase
    rw [if_neg hm]
    obtain hbrk | (hpos : 0 < baseCycles s.params i.opcode) := hbase
    · simp [hbrk]
    · simp only [hm, iff_false]
      omega

/-- Settles O46: a step that answers is a halted one, a service of 7 cycles (`service_cycles`), or an
instruction, which charges nothing only if undefined (`chargedCycles_eq_zero_iff`). -/
theorem zeroCyclesOnlyWhenHaltedOrHalting : Obligations.ZeroCyclesOnlyWhenHaltedOrHalting := by
  unfold Obligations.ZeroCyclesOnlyWhenHaltedOrHalting
  intro s hp
  have hcharged (t : State) (hx : exec (nextInstr s) (commitFetch (nextInstr s).mode s) = .next t) :
      t.cycles = s.cycles ↔ (nextInstr s).mnemonic = .unimplemented := by
    rw [exec_next hx, result_cycles, commitFetch_cycles, Nat.add_eq_left,
      chargedCycles_eq_zero_iff ((commitFetch_params _ s).trans hp)]
  refine ⟨fun h => ?_, fun h => ?_⟩
  · cases hstep : step s with
    | fault f => rw [stepCycles, hstep] at h; cases h
    | refused r => rw [stepCycles, hstep] at h; cases h
    | next t =>
      rw [stepCycles_of_next hstep, Option.some.injEq] at h
      rcases step_cases hstep with ⟨hr, -⟩ | ⟨-, k, -, hs⟩ | ⟨he, hx⟩
      · exact .inl hr
      · have h7 := service_cycles hs
        omega
      · refine .inr ⟨he, (hcharged t hx).1 ?_⟩
        have hle : s.cycles ≤ t.cycles := by
          rw [exec_next hx, result_cycles, commitFetch_cycles]
          exact Nat.le_add_right _ _
        omega
  · rcases h with hr | ⟨he, hm⟩
    · rw [stepCycles_of_next (step_halted hr), Nat.sub_self]
    · have hx := exec_of_unimplemented (commitFetch (nextInstr s).mode s) hm
      rw [stepCycles_of_next ((step_exec he).trans hx), (hcharged _ hx).2 hm, Nat.sub_self]

end Sys2Proof.Machine
end

section
/-! The decimal flag (spec/10_state.md R32): writing it before an instruction that neither pushes, pulls nor
writes it is writing it after. -/

namespace Sys2Proof.Machine

open Sys2Proof.Safety

/-! ### Status bytes -/

theorem putFlag_comm {f g : Flag} (h : f ≠ g) (u v : Bool) (p : Byte) :
    putFlag f u (putFlag g v p) = putFlag g v (putFlag f u p) := by
  refine eq_of_getFlag fun e => ?_
  simp only [getFlag_putFlag]
  split_ifs with hf hg
  · exact absurd (hf.symm.trans hg) h
  all_goals rfl

theorem setZN_putD (v : Byte) (d : Bool) (p : Byte) :
    setZN v (putFlag .D d p) = putFlag .D d (setZN v p) := by
  rw [setZN, setZN, putFlag_comm (f := .Z) (g := .D) (by decide),
    putFlag_comm (f := .N) (g := .D) (by decide)]

theorem shiftResult_putD (out : Byte) (c d : Bool) (p : Byte) :
    shiftResult out c (putFlag .D d p) =
      ((shiftResult out c p).1, putFlag .D d (shiftResult out c p).2) := by
  simp only [shiftResult, putFlag_comm (f := .C) (g := .D) (by decide), setZN_putD]

theorem getFlag_C_putD (d : Bool) (p : Byte) : getFlag .C (putFlag .D d p) = getFlag .C p :=
  getFlag_putFlag_ne (by decide) d p

theorem adcOut_putD (a m : Byte) (d : Bool) (p : Byte) : adcOut a m (putFlag .D d p) = adcOut a m p := by
  rw [adcOut_eq_ofNat, adcOut_eq_ofNat, getFlag_C_putD]

theorem adcFlags_putD (a m : Byte) (d : Bool) (p : Byte) :
    adcFlags a m (putFlag .D d p) = putFlag .D d (adcFlags a m p) := by
  have hsum : adcSum a m (putFlag .D d p) = adcSum a m p := by
    simp only [adcSum, flagWord, getFlag_C_putD]
  simp only [adcFlags, hsum]
  rw [putFlag_comm (f := .C) (by decide), putFlag_comm (f := .Z) (by decide),
    putFlag_comm (f := .V) (by decide), putFlag_comm (f := .N) (by decide)]

theorem cmpFlags_putD (r m : Byte) (d : Bool) (p : Byte) :
    cmpFlags r m (putFlag .D d p) = putFlag .D d (cmpFlags r m p) := by
  rw [cmpFlags, cmpFlags, putFlag_comm (f := .C) (by decide), setZN_putD]

theorem bitFlags_putD (a m : Byte) (d : Bool) (p : Byte) :
    bitFlags a m (putFlag .D d p) = putFlag .D d (bitFlags a m p) := by
  rw [bitFlags, bitFlags, putFlag_comm (f := .Z) (by decide), putFlag_comm (f := .V) (by decide),
    putFlag_comm (f := .N) (by decide)]

/-! ### Operand access -/

theorem resolve_setD (f : Form) (d : Bool) (s : State) :
    resolve f (setFlag .D d s) =
      ⟨(resolve f s).target, (resolve f s).crossed, setFlag .D d (resolve f s).st⟩ := by
  cases f <;> rfl

theorem operandByte_setD (t : Target) (d : Bool) (s : State) :
    operandByte t (setFlag .D d s) = operandByte t s := by cases t <;> rfl

theorem afterOperand_setD (t : Target) (d : Bool) (s : State) :
    afterOperand t (setFlag .D d s) = setFlag .D d (afterOperand t s) := by cases t <;> rfl

theorem writeOperand_setD (t : Target) (v : Byte) (d : Bool) (s : State) :
    writeOperand t v (setFlag .D d s) = setFlag .D d (writeOperand t v s) := by cases t <;> rfl

theorem targetOf_setD (i : Instr) (d : Bool) (s : State) :
    targetOf i (setFlag .D d s) = targetOf i s := by rw [targetOf, resolve_setD]; rfl

theorem afterResolve_setD (i : Instr) (d : Bool) (s : State) :
    afterResolve i (setFlag .D d s) = setFlag .D d (afterResolve i s) := by
  rw [afterResolve, resolve_setD]; rfl

theorem operandOf_setD (i : Instr) (d : Bool) (s : State) :
    operandOf i (setFlag .D d s) = operandOf i s := by
  rw [operandOf, targetOf_setD, afterResolve_setD, operandByte_setD]; rfl

theorem afterOperandOf_setD (i : Instr) (d : Bool) (s : State) :
    afterOperandOf i (setFlag .D d s) = setFlag .D d (afterOperandOf i s) := by
  rw [afterOperandOf, targetOf_setD, afterResolve_setD, afterOperand_setD]; rfl

theorem jumpTo_setD (f : Form) (d : Bool) (s : State) :
    jumpTo f (setFlag .D d s) = setFlag .D d (jumpTo f s) := by
  unfold jumpTo
  simp only [resolve_setD]
  cases (resolve f s).target <;> rfl

theorem branch_setD (c : Bool) (o : Byte) (d : Bool) (s : State) :
    branch c o (setFlag .D d s) = setFlag .D d (branch c o s) := by cases c <;> rfl

/-! ### Instructions -/

/-- What a shape does with the operand, or with the whole state, neither reads nor writes D. The other
shapes but BRK's do not touch it. -/
def Kind.ActIgnoresD (d : Bool) : Kind → Prop
  | .read act => ∀ v s, act v (setFlag .D d s) = setFlag .D d (act v s)
  | .store v => ∀ s, v (setFlag .D d s) = v s
  | .modify act => ∀ m p, act m (putFlag .D d p) = ((act m p).1, putFlag .D d (act m p).2)
  | .implied act => ∀ s, act (setFlag .D d s) = setFlag .D d (act s)
  | .branch fl _ _ => fl ≠ .D
  | .brk => False
  | .undefined => True

theorem loadReg_setD {set : Byte → State → State} {d : Bool}
    (hset : ∀ v q s, setP q (set v (setFlag .D d s)) = setP q (set v s))
    (hp : ∀ v q s, setFlag .D d (setP q (set v s)) = setP (putFlag .D d q) (set v s))
    (v : Byte) (s : State) :
    loadReg set v (setFlag .D d s) = setFlag .D d (loadReg set v s) := by
  rw [loadReg_eq, loadReg_eq, setFlag_p, setZN_putD, hset, hp]

theorem loadA_setD (d : Bool) (v : Byte) (s : State) :
    loadReg setA v (setFlag .D d s) = setFlag .D d (loadReg setA v s) :=
  loadReg_setD (fun _ _ _ => rfl) (fun _ _ _ => rfl) v s

theorem loadX_setD (d : Bool) (v : Byte) (s : State) :
    loadReg setX v (setFlag .D d s) = setFlag .D d (loadReg setX v s) :=
  loadReg_setD (fun _ _ _ => rfl) (fun _ _ _ => rfl) v s

theorem loadY_setD (d : Bool) (v : Byte) (s : State) :
    loadReg setY v (setFlag .D d s) = setFlag .D d (loadReg setY v s) :=
  loadReg_setD (fun _ _ _ => rfl) (fun _ _ _ => rfl) v s

theorem adcA_setD (d : Bool) (m : Byte) (s : State) :
    adcA m (setFlag .D d s) = setFlag .D d (adcA m s) := by
  rw [adcA_eq, adcA_eq, setFlag_a, setFlag_p, adcOut_putD, adcFlags_putD]
  rfl

theorem cmpReg_setD (d : Bool) (r m : Byte) (s : State) :
    cmpReg r m (setFlag .D d s) = setFlag .D d (cmpReg r m s) := by
  rw [cmpReg_eq, cmpReg_eq, setFlag_p, cmpFlags_putD]
  rfl

theorem bitA_setD (d : Bool) (m : Byte) (s : State) :
    bitA m (setFlag .D d s) = setFlag .D d (bitA m s) := by
  rw [bitA_eq, bitA_eq, setFlag_a, setFlag_p, bitFlags_putD]
  rfl

theorem setFlag_setD {f : Flag} (h : f ≠ .D) (v d : Bool) (s : State) :
    setFlag f v (setFlag .D d s) = setFlag .D d (setFlag f v s) :=
  congrArg (setP · s) (putFlag_comm h v d s.p)

theorem push16_setD (d : Bool) (w : Word) (s : State) :
    push16 w (setFlag .D d s) = setFlag .D d (push16 w s) := by
  rw [push16_eq, push16_eq]
  rfl

theorem returnSub_setD (d : Bool) (s : State) :
    returnSub (setFlag .D d s) = setFlag .D d (returnSub s) := by
  rw [returnSub_eq, returnSub_eq]
  rfl

theorem kindOf_actIgnoresD (f : Form) (d : Bool) {m : Mnemonic}
    (hm : m ∉ [.php, .brk, .plp, .rti, .cld, .sed]) : (kindOf f m).ActIgnoresD d := by
  cases m
  case php | brk | plp | rti | cld | sed => simp at hm
  case lda => exact loadA_setD d
  case ldx => exact loadX_setD d
  case ldy => exact loadY_setD d
  case txa => exact fun s => loadA_setD d s.x s
  case tya => exact fun s => loadA_setD d s.y s
  case tax => exact fun s => loadX_setD d s.a s
  case tsx => exact fun s => loadX_setD d s.sp s
  case tay => exact fun s => loadY_setD d s.a s
  case inx => exact fun s => loadX_setD d (s.x + 1) s
  case dex => exact fun s => loadX_setD d (s.x - 1) s
  case iny => exact fun s => loadY_setD d (s.y + 1) s
  case dey => exact fun s => loadY_setD d (s.y - 1) s
  case pla => exact fun s => loadA_setD d _ (setSp (s.sp + 1) (afterRead (stackAddr (s.sp + 1)) s))
  case and => exact fun v s => loadA_setD d (s.a &&& v) s
  case ora => exact fun v s => loadA_setD d (s.a ||| v) s
  case eor => exact fun v s => loadA_setD d (s.a ^^^ v) s
  case bit => exact bitA_setD d
  case adc => exact adcA_setD d
  case sbc => exact fun v s => adcA_setD d (~~~v) s
  case cmp => exact fun v s => cmpReg_setD d s.a v s
  case cpx => exact fun v s => cmpReg_setD d s.x v s
  case cpy => exact fun v s => cmpReg_setD d s.y v s
  case inc => exact fun v p => congrArg (Prod.mk _) (setZN_putD (v + 1) d p)
  case dec => exact fun v p => congrArg (Prod.mk _) (setZN_putD (v - 1) d p)
  case asl | lsr => exact fun v p => shiftResult_putD _ _ d p
  case rol => exact fun v p => by rw [rol, getFlag_C_putD]; exact shiftResult_putD _ _ d p
  case ror => exact fun v p => by rw [ror, getFlag_C_putD]; exact shiftResult_putD _ _ d p
  case jmp => exact jumpTo_setD f d
  case jsr => exact fun s => congrArg (setPc (formWord f)) (push16_setD d (s.pc - 1) s)
  case rts => exact returnSub_setD d
  case clc | sec | cli | sei | clv => exact setFlag_setD (by decide) _ d
  case bcc | bcs | beq | bmi | bne | bpl | bvc | bvs => exact fun h => by cases h
  case unimplemented => trivial
  case sta | stx | sty | txs | pha | nop => exact fun _ => rfl

theorem result_setD {i : Instr} (d : Bool) (s : State)
    (hm : i.mnemonic ∉ [.php, .brk, .plp, .rti, .cld, .sed]) :
    (kindOf i.form i.mnemonic).result i (setFlag .D d s) =
      setFlag .D d ((kindOf i.form i.mnemonic).result i s) := by
  have hd := kindOf_actIgnoresD i.form d hm
  have hcycles (n : Nat) (t : State) : addCycles n (setFlag .D d t) = setFlag .D d (addCycles n t) := rfl
  cases hk : kindOf i.form i.mnemonic with
  | read act =>
    rw [hk] at hd
    simp only [Kind.result, operandOf_setD, afterOperandOf_setD, resolve_setD, setFlag_params, hcycles]
    rw [hd]
    rfl
  | store v =>
    rw [hk] at hd
    simp only [Kind.result, targetOf_setD, afterResolve_setD, writeOperand_setD]
    rw [hd]
    rfl
  | modify act =>
    rw [hk] at hd
    simp only [Kind.result, operandOf_setD, afterOperandOf_setD, resolve_setD, setFlag_params, hcycles,
      targetOf_setD, writeOperand_setD, setFlag_p]
    rw [hd]
    rfl
  | implied act => rw [hk] at hd; rw [Kind.result, hd]; rfl
  | branch fl want o =>
    rw [hk] at hd
    rw [Kind.result, setFlag_p, getFlag_putFlag_ne hd, branch_setD]
    rfl
  | brk => rw [hk] at hd; exact hd.elim
  | undefined => rfl

/-- Settles O60: both runs answer their shape's state (`exec_eq_result`), and writing D before is writing it
after (`result_setD`). -/
theorem decimalFlagHasNoEffect : Obligations.DecimalFlagHasNoEffect := by
  unfold Obligations.DecimalFlagHasNoEffect
  intro i s t d hm h
  have hne : i.mnemonic ≠ .brk := fun e => hm (by simp [e])
  rw [exec_next h]
  exact (exec_eq_result i fun e => absurd e hne).trans (congrArg _ (result_setD d s hm))

end Sys2Proof.Machine
end
